-- ==== Sys2Proof/Word.lean ====
section
/-! DEFINITION. The element and register widths of the ZDQ core (R8, R18, R21): plain bit vectors. -/

namespace Sys2Proof

/-- A u8: an element of HBUF, LBUF, FIN, FOUT, HS and LS, and a command word (R21, R51). -/
abbrev Byte := BitVec 8

/-- A u16: an element of DIN, DOUT and CBUF: a depth or a code (R21). -/
abbrev Half := BitVec 16

/-- A u32: what one host register access moves (R18). -/
abbrev Word := BitVec 32

end Sys2Proof
end

