-- ==== Sys2Proof/Syntax.lean ====
section
/-! DEFINITION. The command set (R52), the fields of a command word (R51), the address spaces (R27), the register names
(R18) and the host's statements (R55). -/

namespace Sys2Proof

/-- The block's commands: one constructor per row of spec/opcode_table.json (R52). A command has no operand in its word
(R51): operands are registers and buffers. -/
inductive Instr where
  | sreset
  | quant
  | dequant
  | rescale
  | unrescale
  | filter
  | unfilter
  | fasm
  | fparse
  | isdepth
  | iskey
  | encode
  | encodeK
  | decode
deriving DecidableEq, Repr

/-- The three fields of a command word (R51). -/
structure CommandFields where
  /-- OPC, bits 3:0. -/
  opc : BitVec 4
  /-- K, bit 4: the keyframe request. -/
  k : Bool
  /-- RSV, bits 7:5. -/
  rsv : BitVec 3
deriving DecidableEq, Repr

/-- The nine address spaces (R27). -/
inductive Space where
  | din | dout | cbuf | hbuf | lbuf | fin | fout | hs | ls
deriving DecidableEq, Repr

/-- The named registers of R18. A register number that names none of them is reserved. -/
inductive Reg where
  | opN | opW | opH | opType | opMin | opMax | opFlen | opFn | opFlags | opHub | opHcb | opLcb
  | vp0 | vp1 | vp2 | vp3
  | result | rKey | rHevc | rFn | rW | rH | rMin | rMax | rHub | rHcb | rLcb | rLen | rBool
  | fcLo | fcHi | role | busy | cmd
deriving DecidableEq, Repr

/-- A statement of a host program (R55), and block reset (R138, R152). A register number has six bits (R18: 0x00 to
0x3F); `cmd` of R55 is a `wr` to register 0x30. -/
inductive HostStmt where
  /-- `wr <REG>, <value>`. -/
  | wr (num : BitVec 6) (value : Word)
  /-- `rd <REG>`. -/
  | rd (num : BitVec 6)
  /-- `st <SPACE>[<a>..], <v0>, <v1>, ...`. -/
  | st (space : Space) (a : Nat) (values : List Word)
  /-- `ld <SPACE>[<a>..<b>)`. -/
  | ld (space : Space) (a b : Nat)
  /-- The second half of `mv`: store the last `n` values the host has read from index `a` on. -/
  | stSeen (space : Space) (a n : Nat)
  /-- `mv <DST>[<a>..], <SRC>[<b>..<c>)`. -/
  | mv (dst : Space) (a : Nat) (src : Space) (b c : Nat)
  /-- `wait`: read BUSY until it reads 0. -/
  | wait
  /-- Block reset, the external event of R138. -/
  | blockReset
deriving DecidableEq, Repr

end Sys2Proof
end

