-- ==== Sys2Proof/WellFormed.lean ====
section
/-! DEFINITION. When the fields of a command word are legal (R53, negated): three checks, each refused by a smoke test in
Sys2Proof/Tests/Slice0.lean. -/

namespace Sys2Proof

/-- OPC is not one of the reserved 0xD to 0xF (R53). -/
def CommandFields.opcodeAssigned (f : CommandFields) : Bool := f.opc.toNat < 0xD

/-- RSV is 0 (R53). -/
def CommandFields.reservedClear (f : CommandFields) : Bool := f.rsv == 0

/-- K = 1 only with OPC = 0xB, ENCODE (R51, R53). -/
def CommandFields.keyOnlyOnEncode (f : CommandFields) : Bool := !f.k || f.opc == 0xB

/-- The fields are those of a legal command word (R53). -/
def CommandFields.wf (f : CommandFields) : Bool :=
  f.opcodeAssigned && f.reservedClear && f.keyOnlyOnEncode

/-- The fields R52 gives the words of each command. -/
def Instr.fields : Instr → CommandFields
  | .sreset => ⟨0x0, false, 0⟩
  | .quant => ⟨0x1, false, 0⟩
  | .dequant => ⟨0x2, false, 0⟩
  | .rescale => ⟨0x3, false, 0⟩
  | .unrescale => ⟨0x4, false, 0⟩
  | .filter => ⟨0x5, false, 0⟩
  | .unfilter => ⟨0x6, false, 0⟩
  | .fasm => ⟨0x7, false, 0⟩
  | .fparse => ⟨0x8, false, 0⟩
  | .isdepth => ⟨0x9, false, 0⟩
  | .iskey => ⟨0xA, false, 0⟩
  | .encode => ⟨0xB, false, 0⟩
  | .encodeK => ⟨0xB, true, 0⟩
  | .decode => ⟨0xC, false, 0⟩

/-- A command is well-formed when its fields are (it always is: a command has no operand in its word). -/
def Instr.wf (i : Instr) : Bool := i.fields.wf

end Sys2Proof
end

