-- ==== Sys2Proof/Decode.lean ====
section
/-! DEFINITION. Decoding a command word (R51 to R54), total on any byte and rejecting by name, and the encoder. -/

namespace Sys2Proof

/-- The fields of a command word: OPC = w[3:0], K = w[4], RSV = w[7:5] (R54). -/
def commandFields (w : Byte) : CommandFields where
  opc := w.extractLsb' 0 4
  k := w.getLsbD 4
  rsv := w.extractLsb' 5 3

/-- The command word with the given fields (R51). -/
def CommandFields.word (f : CommandFields) : Byte :=
  (f.rsv ++ BitVec.ofBool f.k) ++ f.opc

/-- Why a command word is illegal (R53). -/
inductive DecodeError where
  /-- RSV is not 0. -/
  | reservedBits
  /-- OPC is 0xD, 0xE or 0xF. -/
  | reservedOpcode
  /-- K = 1 with an OPC other than 0xB. -/
  | keyWithoutEncode
deriving DecidableEq, Repr

/-- The opcode map with K = 0 (R52). -/
def opcodeMap (opc : BitVec 4) : Option Instr :=
  match opc.toNat with
  | 0x0 => some .sreset
  | 0x1 => some .quant
  | 0x2 => some .dequant
  | 0x3 => some .rescale
  | 0x4 => some .unrescale
  | 0x5 => some .filter
  | 0x6 => some .unfilter
  | 0x7 => some .fasm
  | 0x8 => some .fparse
  | 0x9 => some .isdepth
  | 0xA => some .iskey
  | 0xB => some .encode
  | 0xC => some .decode
  | _ => none

/-- The command the fields stand for, or why there is none (R52, R53). -/
def decodeFields (f : CommandFields) : Except DecodeError Instr :=
  if f.rsv ≠ 0 then .error .reservedBits
  else match opcodeMap f.opc, f.k with
    | none, _ => .error .reservedOpcode
    | some i, false => .ok i
    | some .encode, true => .ok .encodeK
    | some _, true => .error .keyWithoutEncode

/-- Decodes one command word: every command is exactly one word (R54). -/
def decode (w : Byte) : Except DecodeError Instr := decodeFields (commandFields w)

/-- The word of a command (R52). -/
def encode (i : Instr) : Byte := i.fields.word

/-- What the decoder reads from a table row's bits: a command word has 8 bits and one byte. -/
def decodeTableWord (nbits w : Nat) : Option Instr :=
  if nbits = 8 then (decode (BitVec.ofNat 8 w)).toOption else none

end Sys2Proof
end

