-- ==== Sys2Proof/Config.lean ====
section
/-! DEFINITION. What is fixed for a machine (R6): the constants of the spec, the record of parameters, and the free values:
constants without a body, so that no proof knows what they are. -/

namespace Sys2Proof

/-- `MAX_DIM`: the largest width or height (R6). -/
def maxDim : Nat := 4096

/-- `N_MAX` = 4096 × 4096 samples (R6). -/
def nMax : Nat := 16777216

/-- `HDR_BYTES` (R6). -/
def headerBytes : Nat := 26

/-- `MAGIC` (R6). -/
def magic : Byte := 0xCA

/-- The parameter `CHROMA_FILL` (R6, R24). -/
inductive ChromaFill where
  /-- The chroma scratch handed to the encoder is a draw. -/
  | any
  /-- It is all zero bytes. -/
  | zero
deriving DecidableEq, Repr, Inhabited

/-- Which entropy coder is attached to port EC. -/
inductive EntropyCoder where
  /-- The open functions of R42 and R43. -/
  | open_
  /-- The named configuration EC-IDENTITY (R48). -/
  | identity
deriving DecidableEq, Repr

/-- Which video codec is attached to port VC. -/
inductive VideoCoder where
  /-- The open relations of R45 and R46. -/
  | open_
  /-- The named configuration VC-IDEAL (R48). -/
  | ideal
deriving DecidableEq, Repr

/-- The parameters a model takes (R6), plain data that no step changes (log 10). -/
structure Params where
  /-- `FRAME_CAP`, the byte capacity of FIN and FOUT. -/
  frameCap : Nat
  chromaFill : ChromaFill
  entropyCoder : EntropyCoder
  videoCoder : VideoCoder
deriving DecidableEq, Repr

/-- R6's bound on `FRAME_CAP`: 26 ≤ FRAME_CAP ≤ 2^32 − 1. -/
abbrev Params.Legal (p : Params) : Prop := 26 ≤ p.frameCap ∧ p.frameCap ≤ 2 ^ 32 - 1

/-- The video codec type (R6, R108). -/
inductive CodecType where
  | h264 | h265
deriving DecidableEq, Repr, Inhabited

/-- VCTX, the codec's context: opaque to the core, so a name for it and nothing else (R23; log 7). -/
structure Vctx where
  id : Nat
deriving DecidableEq, Repr, Inhabited

/-- `VPARAMS`: the four words the core passes on unread (R22). -/
structure VParams where
  vp0 : Word
  vp1 : Word
  vp2 : Word
  vp3 : Word
deriving DecidableEq, Repr, Inhabited

/-- The arguments of `VC.encode_begin` but the context: the encode job of R25 and R45. `plane` is LS[0 .. N + N/2). -/
structure EncodeJob where
  vparams : VParams
  width : Nat
  height : Nat
  codec : CodecType
  key : Bool
  plane : List Byte
deriving DecidableEq, Repr, Inhabited

/-- The arguments of `VC.decode` but the context (R46). -/
structure DecodeJob where
  width : Nat
  height : Nat
  codec : CodecType
  bits : List Byte
deriving DecidableEq, Repr, Inhabited

/-- What the codec answers to an encode: its new context and the bitstream, [] for a failure (R45). -/
structure EncodeAnswer where
  ctx : Vctx
  bits : List Byte
deriving DecidableEq, Repr, Inhabited

/-- What the codec answers to a decode: its new context and a plane, or failure (R46). -/
structure DecodeAnswer where
  ctx : Vctx
  plane : Option (List Byte)
deriving DecidableEq, Repr, Inhabited

/-- OPEN: how far `FRAME_CAP` lies above 26, so that R6's bound holds whatever it is (log 10). -/
opaque Config.frameCapAbove26 : Fin (4294967269 + 1)

/-- OPEN: `CHROMA_FILL` (R6). -/
opaque Config.chromaFill : ChromaFill

/-- OPEN: `BUFFER_MAP`, where an integrator maps each buffer (R29). No rule reads it (log 23). -/
opaque Config.bufferMap : Space → Nat

/-- OPEN: the video codec's initial context `vcInit` (R23, R99). -/
opaque Config.vcInit : Vctx

/-- OPEN: the entropy coder's compressor before R43's laws are imposed (log 8). -/
opaque Config.ecRawCompress : List Byte → List Byte

/-- OPEN: the entropy coder's decompressor before R43's laws are imposed (log 8). -/
opaque Config.ecRawDecompress : List Byte → Nat → Option (List Byte)

/-- FREE: one of the answers `vcEncode` allows; the number names the draw, so that equal calls may answer differently
(R45; log 9). -/
opaque Config.vcEncode : Nat → Vctx → EncodeJob → EncodeAnswer

/-- FREE: the chroma scratch byte the encoder leaves, by draw and index (R24, R45). -/
opaque Config.chromaAfter : Nat → Nat → Byte

/-- FREE: the chroma scratch byte the encoder is handed with `CHROMA_FILL = Any`, by draw and index (R24). -/
opaque Config.chromaBefore : Nat → Nat → Byte

/-- FREE: one of the answers `vcDecode` allows, by draw (R46; log 9). -/
opaque Config.vcDecode : Nat → Vctx → DecodeJob → DecodeAnswer

/-- FREE: a buffer element nothing has written since the draw numbered first, by draw and index (R21, R139; log 6). -/
opaque Config.element (w : Nat) : Nat → Nat → BitVec w

/-- FREE: what a host read returns while BUSY = 1, by draw (R36, R144). -/
opaque Config.busyRead : Nat → Word

/-- FREE: how many host moves fit before the command completes, by draw (R137, R151; log 2). -/
opaque Config.busyMoves : Nat → Nat

end Sys2Proof
end

