-- ==== Sys2Proof/Machine/Memory.lean ====
section
/-! DEFINITION. One address space (R27): what has been written, as (index, element) pairs with strictly rising indexes, and
the number of the draw an unwritten element reads as (R21, R139; log 6). -/

namespace Sys2Proof.Machine

/-- The content of an address space whose elements have `w` bits. For `w = 8` the cells are `Host.Cell`s. -/
structure Memory (w : Nat) where
  cells : List (Nat × BitVec w)
  epoch : Nat
deriving DecidableEq, Repr

/-- Nothing written: every element is a draw of its own. -/
def Memory.fresh (w epoch : Nat) : Memory w := ⟨[], epoch⟩

/-- The element stored at an index, if one is. -/
def Memory.lookup {w : Nat} : List (Nat × BitVec w) → Nat → Option (BitVec w)
  | [], _ => none
  | (b, v) :: cells, a => if a = b then some v else Memory.lookup cells a

/-- Reads one element. THE ONE PLACE that says what an unlisted element reads as: its draw. -/
def Memory.get {w : Nat} (m : Memory w) (a : Nat) : BitVec w :=
  (Memory.lookup m.cells a).getD (Config.element w m.epoch a)

/-- `MemRead(S:a, n)` (R10). -/
def Memory.getSeq {w : Nat} (m : Memory w) (a n : Nat) : List (BitVec w) :=
  (List.range n).map fun k => m.get (a + k)

/-- The cells that hold a sequence from an index on. -/
def Memory.cellsFrom {w : Nat} : Nat → List (BitVec w) → List (Nat × BitVec w)
  | _, [] => []
  | a, v :: vs => (a, v) :: Memory.cellsFrom (a + 1) vs

/-- `MemWrite(S:a, |vs|, vs)` (R10). -/
def Memory.setSeq {w : Nat} (m : Memory w) (a : Nat) (vs : List (BitVec w)) : Memory w :=
  { m with
    cells := m.cells.filter (fun c => c.1 < a) ++ Memory.cellsFrom a vs
      ++ m.cells.filter (fun c => a + vs.length ≤ c.1) }

/-- The canonical form: indexes strictly rising. An unlisted index stores nothing, so no entry repeats what it reads as. -/
abbrev Memory.wf {w : Nat} (m : Memory w) : Prop := (m.cells.map Prod.fst).Pairwise (· < ·)

/-- Every listed index lies below a capacity (R27). -/
abbrev Memory.within {w : Nat} (m : Memory w) (capacity : Nat) : Prop := ∀ c ∈ m.cells, c.1 < capacity

end Sys2Proof.Machine
end

