-- ==== Sys2Proof/Machine/State.lean ====
section
/-! DEFINITION. Everything the spec gives the machine (10_state.md), as plain data, and its value after block reset (R139). -/

namespace Sys2Proof.Machine

/-- The result codes (R62). Raised by the commands, through `raise`; codes 7 to 255 are never written. -/
inductive Result where
  | success
  | fileTruncated
  | wrongFormat
  | corrupted
  | missingFrame
  | illegalCommand
  | badOperand
deriving DecidableEq, Repr

/-- The role a session has taken (R17): NONE, ENC or DEC. -/
inductive Role where
  | none
  | enc
  | dec
deriving DecidableEq, Repr

/-- The model faults (R10, R123 to R125). -/
inductive Fault where
  /-- Raised by a host move (`hostMove`): the host wrote CMD, a register or a buffer element, or reset the block, while
  BUSY = 1 (R123, R138). Safe: the spec gives such a run no meaning. -/
  | hostProtocol
  /-- Raised by ENCODE and ENCODE.K: the frame would be longer than `FRAME_CAP` (R124). Safe: the spec gives such a run no
  meaning. -/
  | frameOverflow
deriving DecidableEq, Repr

/-- Why the model gives a step no meaning. -/
inductive Refusal where
  /-- Raised by `exec` for a command that has no meaning yet. Safe. No arm raises it. -/
  | notModelled (mnemonic : String)
  /-- Raised by a host move: a buffer access that R152's host table does not have (an index beyond the capacity, a space the
  host cannot reach, a value wider than the element), for which "the model has no step". Safe. No command raises it. -/
  | hostAccess
deriving DecidableEq, Repr

/-- The operand registers (R18), host read-write; no command writes them. -/
structure OperandRegs where
  n : Word
  w : Half
  h : Half
  type : BitVec 1
  min : Half
  max : Half
  flen : Word
  fn : Half
  flags : BitVec 2
  hub : Word
  hcb : Word
  lcb : Word
  vp0 : Word
  vp1 : Word
  vp2 : Word
  vp3 : Word
deriving DecidableEq, Repr

/-- The response registers 0x11 to 0x1C (R18, R20), written by a command's Success only. -/
structure ResponseRegs where
  key : BitVec 1
  hevc : BitVec 1
  fn : Half
  w : Half
  h : Half
  min : Half
  max : Half
  hub : Word
  hcb : Word
  lcb : Word
  len : Word
  bool : BitVec 1
deriving DecidableEq, Repr

/-- The machine's state. -/
structure State where
  /-- The operand registers (R18). -/
  op : OperandRegs
  /-- RESULT (R18, R62). -/
  result : Result
  /-- The response registers (R20). -/
  resp : ResponseRegs
  /-- FRAME_COUNT (R16). -/
  frameCount : BitVec 64
  /-- ROLE (R17). -/
  role : Role
  /-- BUSY (R19). -/
  busy : Bool
  /-- The command word last written to CMD (R19). -/
  cmd : Byte
  /-- VCTX (R23): only the VC port's answers and SRESET change it; what an answer leaves is free (logs 9, 25). -/
  vctx : Vctx
  /-- The encode in flight (R25); EIF is whether there is one. -/
  encJob : Option EncodeJob
  din : Memory 16
  dout : Memory 16
  cbuf : Memory 16
  hbuf : Memory 8
  lbuf : Memory 8
  fin : Memory 8
  fout : Memory 8
  hs : Memory 8
  ls : Memory 8
  /-- The model fault recorded, if any (R10, R125, R139). -/
  faultRec : Option Fault
  /-- The parameters (R6); no step changes them. -/
  params : Params
  /-- MODEL'S OWN: the number of the next free value. -/
  draws : Nat
  /-- MODEL'S OWN: the host moves left before the running command completes. -/
  delay : Nat
  /-- MODEL'S OWN: the host's remaining statements (R55). -/
  prog : List HostStmt
  /-- MODEL'S OWN: what the host has read, oldest first. -/
  seen : List Word
deriving DecidableEq, Repr

/-- EIF: 1 while an encode is in flight (R25). -/
def State.eif (s : State) : Bool := s.encJob.isSome

/-- The state after block reset (R139). Buffer `k` of R21's table reads as the draws numbered `k`. -/
def State.reset : State where
  op := ⟨0, 0, 0, 0, 0, 0, 0, 0, 0, 0, 0, 0, 0, 0, 0, 0⟩
  result := .success
  resp := ⟨0, 0, 0, 0, 0, 0, 0, 0, 0, 0, 0, 0⟩
  frameCount := 0
  role := .none
  busy := false
  cmd := 0
  vctx := Config.vcInit
  encJob := none
  din := Memory.fresh 16 0
  dout := Memory.fresh 16 1
  cbuf := Memory.fresh 16 2
  hbuf := Memory.fresh 8 3
  lbuf := Memory.fresh 8 4
  fin := Memory.fresh 8 5
  fout := Memory.fresh 8 6
  hs := Memory.fresh 8 7
  ls := Memory.fresh 8 8
  faultRec := none
  params :=
    { frameCap := Config.frameCapAbove26.val + 26
      chromaFill := Config.chromaFill
      entropyCoder := .open_
      videoCoder := .open_ }
  draws := 9
  delay := 0
  prog := []
  seen := []

end Sys2Proof.Machine
end

