-- ==== Sys2Proof/Machine/Flags.lean ====
section
/-! DEFINITION. The block has no condition codes (R15). This file holds the bit patterns software reads instead: the result
codes (R62), the role codes (R17) and the frame header's Flags byte (R58). -/

namespace Sys2Proof.Machine

/-- The 8-bit code of a result (R62). -/
def Result.code : Result → Byte
  | .success => 0
  | .fileTruncated => 1
  | .wrongFormat => 2
  | .corrupted => 3
  | .missingFrame => 4
  | .illegalCommand => 5
  | .badOperand => 6

/-- The 2-bit code of a role (R17). -/
def Role.code : Role → BitVec 2
  | .none => 0
  | .enc => 1
  | .dec => 2

/-- The header's Flags byte: bit 0 Keyframe, bit 1 HEVC, bits 7:2 written 0 (R58, R86). -/
def flagsByte (flags : BitVec 2) : Byte := flags.setWidth 8

/-- The two flags as OP_FLAGS and R86 number them: `key | (hevc << 1)` (R58, R103). -/
def flagPair (key hevc : BitVec 1) : BitVec 2 := hevc ++ key

/-- Flags bit 0 (R58); the reserved bits are not read. -/
def flagKey (b : Byte) : BitVec 1 := b.extractLsb' 0 1

/-- Flags bit 1 (R58). -/
def flagHevc (b : Byte) : BitVec 1 := b.extractLsb' 1 1

end Sys2Proof.Machine
end

