-- ==== Sys2Proof/Machine/Operands.lean ====
section
/-! DEFINITION. Operand forms: the operand registers as numbers (R54: zero-extended, never scaled), the capacity checks
(R28, R120), and little-endian fields of byte sequences (R9, R30, R31). -/

namespace Sys2Proof.Machine

/-- OP_N as a number of samples. -/
def State.opCount (s : State) : Nat := s.op.n.toNat

/-- OP_FLEN as a number of bytes. -/
def State.opFrameLength (s : State) : Nat := s.op.flen.toNat

/-- N = OP_W × OP_H (R11). -/
def State.opSamples (s : State) : Nat := s.op.w.toNat * s.op.h.toNat

/-- VP0 to VP3 as the record the video codec is handed (R22). -/
def State.opVParams (s : State) : VParams := ⟨s.op.vp0, s.op.vp1, s.op.vp2, s.op.vp3⟩

/-- The codec type a bit names: 0 = H.264, 1 = H.265 (R18, R108). -/
def codecOf (hevc : BitVec 1) : CodecType := if hevc = 1 then .h265 else .h264

/-- 1 ≤ v ≤ MAX_DIM (R57, R87, R120). -/
def legalDim (v : Half) : Bool := 1 ≤ v.toNat && v.toNat ≤ maxDim

/-- OP_W or OP_H outside 1..4096, or OP_W × OP_H odd: ENCODE's BadOperand (R103, R120). -/
def State.badImageSize (s : State) : Bool :=
  !(legalDim s.op.w && legalDim s.op.h) || s.opSamples % 2 == 1

/-- A buffer's capacity in elements (R21, R27). -/
def capacityOf (frameCap : Nat) : Space → Nat
  | .din | .dout | .cbuf => nMax
  | .hbuf | .hs => nMax / 2
  | .lbuf | .ls => nMax + nMax / 2
  | .fin | .fout => frameCap

/-- A buffer's element width in bits (R21). -/
def elementWidth : Space → Nat
  | .din | .dout | .cbuf => 16
  | .hbuf | .lbuf | .fin | .fout | .hs | .ls => 8

/-- Whether the host reaches the buffer (R21, R27). -/
def hostVisible : Space → Bool
  | .hs | .ls => false
  | _ => true

/-- `le16(v)` (R9). -/
def le16 (v : Half) : List Byte := [v.extractLsb' 0 8, v.extractLsb' 8 8]

/-- `le32(v)` (R9). -/
def le32 (v : Word) : List Byte :=
  [v.extractLsb' 0 8, v.extractLsb' 8 8, v.extractLsb' 16 8, v.extractLsb' 24 8]

/-- Byte `i` of a sequence; every rule reads only bytes that are there. -/
def byteAt (b : List Byte) (i : Nat) : Byte := b.getD i 0

/-- `rd16(b, o)` (R9). -/
def rd16 (b : List Byte) (o : Nat) : Half := byteAt b (o + 1) ++ byteAt b o

/-- `rd32(b, o)` (R9). -/
def rd32 (b : List Byte) (o : Nat) : Word :=
  ((byteAt b (o + 3) ++ byteAt b (o + 2)) ++ byteAt b (o + 1)) ++ byteAt b o

/-- Byte `j` of a u16 space mapped into byte memory: sample i in bytes 2i and 2i + 1, low byte first (R31). No command
reads it. -/
def sampleByte (m : Memory 16) (j : Nat) : Byte :=
  if j % 2 = 0 then (m.get (j / 2)).extractLsb' 0 8 else (m.get (j / 2)).extractLsb' 8 8

end Sys2Proof.Machine
end

