-- ==== Sys2Proof/Machine/Ops.lean ====
section
/-! DEFINITION. The operations every command shares: ending a command with a result (R19, R113), reading and writing one
buffer element by space, and taking a role (R98). The block has no trap entry and no trap return (R128, R129): `raise` is
the one operation by which a command ends in an error. -/

namespace Sys2Proof.Machine

/-- What a step of this machine answers. -/
abbrev Answer := Host.Outcome State Fault Refusal

/-- Ends a command: writes RESULT and clears BUSY (R19). -/
def endCommand (r : Result) (s : State) : State := { s with result := r, busy := false }

/-- `raise <Result>()`: ends the command with an error and no other change (R10, R113, R128). -/
def raise (r : Result) (s : State) : Answer := .next (endCommand r s)

/-- `x[RESULT] <- Success` (R114). -/
def succeed (s : State) : Answer := .next (endCommand .success s)

/-- Takes a role when the session has none (R17, R98). -/
def claimRole (r : Role) (s : State) : State :=
  if s.role = .none then { s with role := r } else s

/-- Reads one element, zero-extended to a host word (R34). -/
def readElement (space : Space) (a : Nat) (s : State) : Word :=
  match space with
  | .din => (s.din.get a).setWidth 32
  | .dout => (s.dout.get a).setWidth 32
  | .cbuf => (s.cbuf.get a).setWidth 32
  | .hbuf => (s.hbuf.get a).setWidth 32
  | .lbuf => (s.lbuf.get a).setWidth 32
  | .fin => (s.fin.get a).setWidth 32
  | .fout => (s.fout.get a).setWidth 32
  | .hs => (s.hs.get a).setWidth 32
  | .ls => (s.ls.get a).setWidth 32

/-- Writes one element, whose value fits the element width (R34). -/
def writeElement (space : Space) (a : Nat) (v : Word) (s : State) : State :=
  match space with
  | .din => { s with din := s.din.setSeq a [v.setWidth 16] }
  | .dout => { s with dout := s.dout.setSeq a [v.setWidth 16] }
  | .cbuf => { s with cbuf := s.cbuf.setSeq a [v.setWidth 16] }
  | .hbuf => { s with hbuf := s.hbuf.setSeq a [v.setWidth 8] }
  | .lbuf => { s with lbuf := s.lbuf.setSeq a [v.setWidth 8] }
  | .fin => { s with fin := s.fin.setSeq a [v.setWidth 8] }
  | .fout => { s with fout := s.fout.setSeq a [v.setWidth 8] }
  | .hs => { s with hs := s.hs.setSeq a [v.setWidth 8] }
  | .ls => { s with ls := s.ls.setSeq a [v.setWidth 8] }

end Sys2Proof.Machine
end

