-- ==== Sys2Proof/Machine/Framer.lean ====
section
/-! DEFINITION. Unit C4 (43_framer.md): `assemble`, `parse`, the predicates, and FASM, FPARSE, ISDEPTH, ISKEY. -/

namespace Sys2Proof.Machine

/-- The header record `parse` returns (R87). -/
structure Header where
  key : BitVec 1
  hevc : BitVec 1
  fn : Half
  w : Half
  h : Half
  min : Half
  max : Half
  hub : Word
  hcb : Word
  lcb : Word
deriving DecidableEq, Repr

/-- What `parse` returns: a header or one error (R87). -/
inductive Parsed where
  | header (hdr : Header)
  | error (e : Result)
deriving DecidableEq, Repr

/-- `assemble(flags, fn, w, h, mn, mx, hub, hi, lo)` (R86). -/
def assemble (flags : BitVec 2) (fn w h mn mx : Half) (hub : Word) (hi lo : List Byte) : List Byte :=
  [magic, flagsByte flags] ++ le16 fn ++ le16 w ++ le16 h ++ le16 mn ++ le16 mx
    ++ le32 hub ++ le32 (BitVec.ofNat 32 hi.length) ++ le32 (BitVec.ofNat 32 lo.length)
    ++ [0x00, 0x00] ++ hi ++ lo

/-- The fields of a header, read at the offsets of R57 (R87). -/
def headerOf (f : List Byte) : Header where
  key := flagKey (byteAt f 1)
  hevc := flagHevc (byteAt f 1)
  fn := rd16 f 2
  w := rd16 f 4
  h := rd16 f 6
  min := rd16 f 8
  max := rd16 f 10
  hub := rd32 f 12
  hcb := rd32 f 16
  lcb := rd32 f 20

/-- `parse(f)`: five checks, the first that fails decides (R87); the size sum is exact (R88). -/
def parse (f : List Byte) : Parsed :=
  if f.length < headerBytes then .error .fileTruncated
  else if byteAt f 0 ≠ magic then .error .wrongFormat
  else if (rd32 f 12).toNat < 2 then .error .corrupted
  else if f.length ≠ headerBytes + (rd32 f 16).toNat + (rd32 f 20).toNat then .error .fileTruncated
  else if !(legalDim (rd16 f 4) && legalDim (rd16 f 6)) then .error .corrupted
  else .header (headerOf f)

/-- The high payload of a parsed frame (R90). -/
def highSection (f : List Byte) (hdr : Header) : List Byte := (f.drop headerBytes).take hdr.hcb.toNat

/-- The low payload of a parsed frame (R90). -/
def lowSection (f : List Byte) (hdr : Header) : List Byte :=
  (f.drop (headerBytes + hdr.hcb.toNat)).take hdr.lcb.toNat

/-- `isDepthFrame(b)` (R91). -/
def isDepthFrame (b : List Byte) : Bool := headerBytes ≤ b.length && byteAt b 0 == magic

/-- `isKeyFrame(b)` (R91). -/
def isKeyFrame (b : List Byte) : Bool := isDepthFrame b && flagKey (byteAt b 1) == 1

/-- Writes the eleven response registers FPARSE, ENCODE and DECODE report a frame in (R94, R103, R109). -/
def publish (hdr : Header) (len : Nat) (s : State) : State :=
  { s with
    resp :=
      { key := hdr.key, hevc := hdr.hevc, fn := hdr.fn, w := hdr.w, h := hdr.h, min := hdr.min, max := hdr.max
        hub := hdr.hub, hcb := hdr.hcb, lcb := hdr.lcb, len := BitVec.ofNat 32 len, bool := s.resp.bool } }

/-- FASM's capacity breach (R93, R120). -/
def State.badSections (s : State) : Bool :=
  nMax / 2 < s.op.hcb.toNat || nMax + nMax / 2 < s.op.lcb.toNat
    || s.params.frameCap < s.op.hcb.toNat + s.op.lcb.toNat + headerBytes

/-- OP_FLEN beyond FRAME_CAP (R94, R95, R96, R109, R120). -/
def State.badFrameLength (s : State) : Bool := s.params.frameCap < s.opFrameLength

/-- MemRead(FIN:0, OP_FLEN): the frame the host has written. -/
def State.inputFrame (s : State) : List Byte := s.fin.getSeq 0 s.opFrameLength

/-- The frame FASM builds (R93). -/
def State.operandFrame (s : State) : List Byte :=
  assemble s.op.flags s.op.fn s.op.w s.op.h s.op.min s.op.max s.op.hub
    (s.hbuf.getSeq 0 s.op.hcb.toNat) (s.lbuf.getSeq 0 s.op.lcb.toNat)

/-- FASM (R93). -/
def execFasm (s : State) : Answer :=
  if s.badSections then raise .badOperand s
  else succeed { s with
    fout := s.fout.setSeq 0 s.operandFrame
    resp := { s.resp with len := BitVec.ofNat 32 s.operandFrame.length } }

/-- FPARSE (R94). -/
def execFparse (s : State) : Answer :=
  if s.badFrameLength then raise .badOperand s
  else match parse s.inputFrame with
    | .error e => raise e s
    | .header hdr => succeed (publish hdr s.opFrameLength s)

/-- Writes R_BOOL (R95, R96). -/
def answerBool (b : Bool) (s : State) : State :=
  { s with resp := { s.resp with bool := BitVec.ofBool b } }

/-- ISDEPTH (R95). -/
def execIsdepth (s : State) : Answer :=
  if s.badFrameLength then raise .badOperand s
  else succeed (answerBool (isDepthFrame s.inputFrame) s)

/-- ISKEY (R96). -/
def execIskey (s : State) : Answer :=
  if s.badFrameLength then raise .badOperand s
  else succeed (answerBool (isKeyFrame s.inputFrame) s)

end Sys2Proof.Machine
end

