-- ==== Sys2Proof/Machine/Quantizer.lean ====
section
/-! DEFINITION. Unit C1 (40_quantizer.md): `quant`, `dequant`, QUANT and DEQUANT. -/

namespace Sys2Proof.Machine

/-- The band table of R64 on depths as numbers. -/
def quantNat (d : Nat) : Nat :=
  if d ≤ 200 then 0
  else if d < 750 then d - 200
  else if d < 1500 then 550 + (d - 750) / 2
  else if d < 3000 then 925 + (d - 1500) / 4
  else if d < 6000 then 1300 + (d - 3000) / 8
  else if d < 11840 then 1675 + (d - 6000) / 16
  else 0

/-- The inverse table of R65 on codes as numbers. -/
def dequantNat (q : Nat) : Nat :=
  if q = 0 then 0
  else if q < 550 then q + 200
  else if q < 925 then 750 + (q - 550) * 2
  else if q < 1300 then 1500 + (q - 925) * 4
  else if q < 1675 then 3000 + (q - 1300) * 8
  else if q < 2040 then 6000 + (q - 1675) * 16
  else 0

/-- `quant(d)` (R64). -/
def quant (d : Half) : Half := BitVec.ofNat 16 (quantNat d.toNat)

/-- `dequant(q)` (R65). -/
def dequant (q : Half) : Half := BitVec.ofNat 16 (dequantNat q.toNat)

/-- QUANT (R68). -/
def execQuant (s : State) : Answer :=
  if nMax < s.opCount then raise .badOperand s
  else succeed { s with cbuf := s.cbuf.setSeq 0 ((s.din.getSeq 0 s.opCount).map quant) }

/-- DEQUANT (R69). -/
def execDequant (s : State) : Answer :=
  if nMax < s.opCount then raise .badOperand s
  else succeed { s with dout := s.dout.setSeq 0 ((s.cbuf.getSeq 0 s.opCount).map dequant) }

end Sys2Proof.Machine
end

