-- ==== Sys2Proof/Machine/Rescaler.lean ====
section
/-! DEFINITION. Unit C2 (41_rescaler.md): `rescale`, `unrescale`, RESCALE and UNRESCALE. -/

namespace Sys2Proof.Machine

/-- What `rescale` returns: the codes and the side data (R70). -/
structure Rescaled where
  codes : List Half
  min : Half
  max : Half
deriving DecidableEq, Repr

/-- The non-zero codes as numbers (R70). -/
def nonzeroCodes (c : List Half) : List Nat := (c.map BitVec.toNat).filter (· ≠ 0)

/-- Step 5 on one code (R70); `range` is at least 2 where it is used. -/
def rescaleCode (mn range : Nat) (v : Half) : Half :=
  if v = 0 then 0 else BitVec.ofNat 16 (((v.toNat - mn) * 2047 + range / 2) / range + 1)

/-- Step 4 on one code (R70). -/
def rescaleFlat (v : Half) : Half := if v = 0 then 0 else 1

/-- `rescale(c)` (R70). -/
def rescale (c : List Half) : Rescaled :=
  match nonzeroCodes c with
  | [] => ⟨c, 0, 0⟩
  | v :: vs =>
    let mn := vs.foldl Nat.min v
    let mx := vs.foldl Nat.max v
    let range := mx - mn + 1
    if 2048 ≤ range then ⟨c, BitVec.ofNat 16 mn, BitVec.ofNat 16 mx⟩
    else if range ≤ 1 then ⟨c.map rescaleFlat, BitVec.ofNat 16 mn, BitVec.ofNat 16 mx⟩
    else ⟨c.map (rescaleCode mn range), BitVec.ofNat 16 mn, BitVec.ofNat 16 mx⟩

/-- The range of the side data, an integer that can be ≤ 0 (R73). -/
def sideRange (mn mx : Half) : Int := (mx.toNat : Int) - (mn.toNat : Int) + 1

/-- The `range ≤ 1` branch on one code, mod 2^16 (R73). -/
def unrescaleFlat (mn : Half) (v : Half) : Half :=
  if v = 0 then 0 else BitVec.ofNat 16 (v.toNat - 1 + mn.toNat)

/-- The last branch on one code, mod 2^16 (R73). -/
def unrescaleCode (mn : Half) (range : Nat) (v : Half) : Half :=
  if v = 0 then 0 else BitVec.ofNat 16 (((v.toNat - 1) * range + 1023) / 2047 + mn.toNat)

/-- `unrescale(c, mn, mx)` (R73). -/
def unrescale (c : List Half) (mn mx : Half) : List Half :=
  if 2048 ≤ sideRange mn mx then c
  else if sideRange mn mx ≤ 1 then c.map (unrescaleFlat mn)
  else c.map (unrescaleCode mn (sideRange mn mx).toNat)

/-- RESCALE (R76). -/
def execRescale (s : State) : Answer :=
  if nMax < s.opCount then raise .badOperand s
  else
    let r := rescale (s.cbuf.getSeq 0 s.opCount)
    succeed { s with
      cbuf := s.cbuf.setSeq 0 r.codes
      resp := { s.resp with min := r.min, max := r.max } }

/-- UNRESCALE (R77). -/
def execUnrescale (s : State) : Answer :=
  if nMax < s.opCount then raise .badOperand s
  else succeed { s with
    cbuf := s.cbuf.setSeq 0 (unrescale (s.cbuf.getSeq 0 s.opCount) s.op.min s.op.max) }

end Sys2Proof.Machine
end

