-- ==== Sys2Proof/Machine/Ports.lean ====
section
/-! DEFINITION. The two coder ports (20_memory.md sections 5 and 6): the entropy coder EC and the video codec VC. -/

namespace Sys2Proof.Machine

/-- `EC.compress(src)`: [] is a failure (R42). The open coder is any pair of functions with the laws of R43: where the raw
decompressor does not give the source back, compression has failed (log 8). -/
def ecCompress (p : Params) (src : List Byte) : List Byte :=
  match p.entropyCoder with
  | .identity => src
  | .open_ =>
    if Config.ecRawDecompress (Config.ecRawCompress src) src.length = some src then Config.ecRawCompress src else []

/-- `EC.decompress(src, n)`: fails if the decoded length is not n (R43). -/
def ecDecompress (p : Params) (src : List Byte) (n : Nat) : Option (List Byte) :=
  match p.entropyCoder with
  | .identity => if src.length = n then some src else none
  | .open_ => (Config.ecRawDecompress src n).filter (fun y => y.length == n)

/-- `VC.encode_begin`: one encode is in flight (R25, R45). -/
def vcEncodeBegin (job : EncodeJob) (s : State) : State := { s with encJob := some job }

/-- One answer of the codec to an encode, by draw (R45). VC-IDEAL's bits are the plane (R48); R48 names no context for it, so
its context is as free as the open codec's: the model's choice, log 25. -/
def encodeAnswer (p : Params) (draw : Nat) (ctx : Vctx) (job : EncodeJob) : EncodeAnswer :=
  let free := Config.vcEncode draw ctx job
  match p.videoCoder with
  | .ideal => { free with bits := job.plane.take (job.width * job.height) }
  | .open_ => free

/-- One answer of the codec to a decode, by draw: a plane of exactly N bytes, or failure (R46). VC-IDEAL's plane is the bits
when they are N bytes (R48); its context is free: the model's choice, log 25. -/
def decodeAnswer (p : Params) (draw : Nat) (ctx : Vctx) (job : DecodeJob) : DecodeAnswer :=
  let free := Config.vcDecode draw ctx job
  let n := job.width * job.height
  match p.videoCoder with
  | .ideal => { free with plane := if job.bits.length = n then some job.bits else none }
  | .open_ => { free with plane := free.plane.filter (fun plane => plane.length == n) }

/-- The chroma scratch after an encode of N samples: a draw (R24, R45), or unchanged under VC-IDEAL (R48). -/
def chromaWritten (n : Nat) (s : State) : Memory 8 :=
  match s.params.videoCoder with
  | .ideal => s.ls
  | .open_ => s.ls.setSeq n ((List.range (n / 2)).map (Config.chromaAfter s.draws))

/-- `VC.encode_finish`: the in-flight encode answers with a bitstream, [] for a failure, a new context and a new chroma
scratch (R38, R45). With no encode in flight there is no answer; no command calls it so. -/
def vcEncodeFinish (s : State) : State × List Byte :=
  match s.encJob with
  | none => (s, [])
  | some job =>
    let answer := encodeAnswer s.params s.draws s.vctx job
    ({ s with
        encJob := none
        vctx := answer.ctx
        ls := chromaWritten (job.width * job.height) s
        draws := s.draws + 1 },
      answer.bits)

/-- `VC.decode`: a new context, and a plane of exactly N bytes or failure (R46). -/
def vcDecode (job : DecodeJob) (s : State) : State × Option (List Byte) :=
  let answer := decodeAnswer s.params s.draws s.vctx job
  ({ s with vctx := answer.ctx, draws := s.draws + 1 }, answer.plane)

end Sys2Proof.Machine
end

