-- ==== Sys2Proof/Machine/Splitter.lean ====
section
/-! DEFINITION. Unit C3 (42_filter.md): `filter`, `unfilter`, FILTER and UNFILTER. -/

namespace Sys2Proof.Machine

/-- The fold: 255 − lo when raw_high is odd (R79, R80). -/
def fold (rawHigh : Nat) (lo : Byte) : Byte := if rawHigh % 2 = 1 then 255 - lo else lo

/-- The nibble of one code: 0 for the sentinel, else raw_high + 1 (R79). -/
def highNibble (v : Half) : BitVec 4 := if v = 0 then 0 else BitVec.ofNat 4 (v.toNat / 256 + 1)

/-- The low byte of one code, folded (R61, R79). -/
def lowByte (v : Half) : Byte := if v = 0 then 0 else fold (v.toNat / 256) (v.setWidth 8)

/-- The high stream: one byte per pair, lane 0 in bits 3:0 (R60, R79). -/
def filterHigh : List Half → List Byte
  | a :: b :: rest => (highNibble b ++ highNibble a) :: filterHigh rest
  | _ => []

/-- The low plane: one byte per sample (R79). -/
def filterLow (c : List Half) : List Byte := c.map lowByte

/-- The code of one lane, clamped to 1 when a non-zero nibble gives 0 (R81, R82). -/
def unfilterCode (h : BitVec 4) (lo : Byte) : Half :=
  if h = 0 then 0
  else
    let v : Half := BitVec.ofNat 8 (h.toNat - 1) ++ fold (h.toNat - 1) lo
    if v = 0 then 1 else v

/-- `unfilter(H, L)` (R81). -/
def unfilter : List Byte → List Byte → List Half
  | h :: hs, a :: b :: ls =>
    unfilterCode (h.extractLsb' 0 4) a :: unfilterCode (h.extractLsb' 4 4) b :: unfilter hs ls
  | _, _ => []

/-- OP_N beyond N_MAX, or odd (R84, R85). -/
def State.badPairCount (s : State) : Bool := nMax < s.opCount || s.opCount % 2 == 1

/-- FILTER (R84). -/
def execFilter (s : State) : Answer :=
  if s.badPairCount then raise .badOperand s
  else
    let c := s.cbuf.getSeq 0 s.opCount
    if c.any (fun v => 2047 < v.toNat) then raise .badOperand s
    else succeed { s with
      hbuf := s.hbuf.setSeq 0 (filterHigh c)
      lbuf := s.lbuf.setSeq 0 (filterLow c) }

/-- UNFILTER (R85). -/
def execUnfilter (s : State) : Answer :=
  if s.badPairCount then raise .badOperand s
  else succeed { s with
    cbuf := s.cbuf.setSeq 0
      (unfilter (s.hbuf.getSeq 0 (s.opCount / 2)) (s.lbuf.getSeq 0 s.opCount)) }

end Sys2Proof.Machine
end

