-- ==== Sys2Proof/Machine/Sequencer.lean ====
section
/-! DEFINITION. Unit C5 (44_sequencer.md): SRESET, ENCODE, ENCODE.K and DECODE. -/

namespace Sys2Proof.Machine

/-- SRESET (R99): a fresh session; HS and LS become draws. -/
def execSreset (s : State) : Answer :=
  succeed { s with
    frameCount := 0
    role := .none
    vctx := Config.vcInit
    hs := Memory.fresh 8 s.draws
    ls := Memory.fresh 8 (s.draws + 1)
    draws := s.draws + 2 }

/-- The frame is a keyframe when K is 1 or FRAME_COUNT = 0 (R100). -/
def keyframe (k : Bool) (s : State) : Bool := k || s.frameCount == 0

/-- C1 and C2 on the image DIN[0 .. N): the rescaled codes and their side data (R103). -/
def State.rescaledImage (s : State) : Rescaled := rescale ((s.din.getSeq 0 s.opSamples).map quant)

/-- The chroma scratch ENCODE hands to the encoder: zero bytes, or a draw (R24, R103). -/
def chromaHanded (n : Nat) (s : State) : List Byte :=
  match s.params.chromaFill with
  | .zero => List.replicate (n / 2) 0
  | .any => (List.range (n / 2)).map (Config.chromaBefore s.draws)

/-- The number of the next draw once the chroma scratch has been handed on (log 11). -/
def drawsHanded (s : State) : Nat :=
  match s.params.chromaFill with
  | .zero => s.draws
  | .any => s.draws + 1

/-- Writes HS[0 .. N/2), LS[0 .. N) and the chroma scratch LS[N .. N + N/2) (R24, R103). -/
def loadScratch (codes : List Half) (n : Nat) (s : State) : State :=
  { s with
    hs := s.hs.setSeq 0 (filterHigh codes)
    ls := (s.ls.setSeq 0 (filterLow codes)).setSeq n (chromaHanded n s)
    draws := drawsHanded s }

/-- The job ENCODE hands to `VC.encode_begin` (R45, R103). -/
def State.encodeJob (key : Bool) (s : State) : EncodeJob where
  vparams := s.opVParams
  width := s.op.w.toNat
  height := s.op.h.toNat
  codec := codecOf s.op.type
  key := key
  plane := s.ls.getSeq 0 (s.opSamples + s.opSamples / 2)

/-- The payloads an ENCODE gets from the two ports. -/
structure Payloads where
  hi : List Byte
  lo : List Byte
deriving DecidableEq, Repr

/-- C1 to C3 and the three coder calls, in the order of R39: the state after `VC.encode_finish` and the payloads. -/
def encodePayloads (key : Bool) (s : State) : State × Payloads :=
  let loaded := loadScratch s.rescaledImage.codes s.opSamples s
  let begun := vcEncodeBegin (loaded.encodeJob key) loaded
  let hi := ecCompress begun.params (begun.hs.getSeq 0 (s.opSamples / 2))
  let finished := vcEncodeFinish begun
  (finished.1, ⟨hi, finished.2⟩)

/-- The header of the frame ENCODE emits (R101, R103, R104). FrameNumber is FRAME_COUNT before the increment. -/
def State.encodeHeader (key : Bool) (p : Payloads) (s : State) : Header where
  key := BitVec.ofBool key
  hevc := s.op.type
  fn := s.frameCount.setWidth 16
  w := s.op.w
  h := s.op.h
  min := s.rescaledImage.min
  max := s.rescaledImage.max
  hub := BitVec.ofNat 32 (s.opSamples / 2)
  hcb := BitVec.ofNat 32 p.hi.length
  lcb := BitVec.ofNat 32 p.lo.length

/-- The frame with a header and payloads (R86). -/
def frameOf (hdr : Header) (p : Payloads) : List Byte :=
  assemble (flagPair hdr.key hdr.hevc) hdr.fn hdr.w hdr.h hdr.min hdr.max hdr.hub p.hi p.lo

/-- Writes FOUT, counts the frame and reports it (R101, R103). -/
def emitFrame (hdr : Header) (p : Payloads) (s : State) : State :=
  publish hdr (frameOf hdr p).length
    { s with
      fout := s.fout.setSeq 0 (frameOf hdr p)
      frameCount := s.frameCount + 1 }

/-- ENCODE after its checks (R103): a coder failure leaves its section empty and is no error (R102). -/
def encodeImage (key : Bool) (s : State) : Answer :=
  let r := encodePayloads key s
  if s.params.frameCap < headerBytes + r.2.hi.length + r.2.lo.length then .fault .frameOverflow
  else succeed (emitFrame (s.encodeHeader key r.2) r.2 r.1)

/-- ENCODE with keyframe request `k` (R98, R100, R103). -/
def encodeWith (k : Bool) (s : State) : Answer :=
  if s.role = .dec then raise .illegalCommand s
  else if s.badImageSize then raise .badOperand s
  else encodeImage (keyframe k s) (claimRole .enc s)

/-- ENCODE, K = 0 (R103). -/
def execEncode (s : State) : Answer := encodeWith false s

/-- ENCODE.K, K = 1 (R103). -/
def execEncodeK (s : State) : Answer := encodeWith true s

/-- What DECODE's consistency checks refuse (R107). -/
def inconsistent (hdr : Header) : Bool :=
  let n := hdr.w.toNat * hdr.h.toNat
  n % 2 == 1 || hdr.hub.toNat ≠ n / 2 || hdr.hcb == 0 || hdr.lcb == 0

/-- The job DECODE hands to `VC.decode` (R46, R108). -/
def decodeJob (f : List Byte) (hdr : Header) : DecodeJob where
  width := hdr.w.toNat
  height := hdr.h.toNat
  codec := codecOf hdr.hevc
  bits := lowSection f hdr

/-- C3, C2 and C1 inverted: the image of a high stream and a low plane (R109, R110). -/
def imageOf (hs ls : List Byte) (mn mx : Half) : List Half :=
  (unrescale (unfilter hs ls) mn mx).map dequant

/-- Writes LS, DOUT, counts the frame and reports it: the end of a DECODE whose every check passed (R106, R109). -/
def deliverImage (hdr : Header) (plane : List Byte) (s : State) : State :=
  let n := hdr.w.toNat * hdr.h.toNat
  let ls := s.ls.setSeq 0 plane
  publish hdr s.opFrameLength
    { s with
      ls := ls
      dout := s.dout.setSeq 0 (imageOf (s.hs.getSeq 0 (n / 2)) (ls.getSeq 0 n) hdr.min hdr.max)
      frameCount := s.frameCount + 1 }

/-- DECODE from the video decoder on (R109): on its failure VCTX stays as the call left it. -/
def decodeLow (f : List Byte) (hdr : Header) (s : State) : Answer :=
  let r := vcDecode (decodeJob f hdr) s
  match r.2 with
  | none => raise .corrupted r.1
  | some plane => succeed (deliverImage hdr plane r.1)

/-- DECODE of a parsed frame (R105, R107, R109): the entropy decode comes first (R110). -/
def decodeParsed (f : List Byte) (hdr : Header) (s : State) : Answer :=
  if hdr.key = 0 ∧ s.frameCount = 0 then raise .missingFrame s
  else if inconsistent hdr then raise .corrupted s
  else match ecDecompress s.params (highSection f hdr) hdr.hub.toNat with
    | none => raise .corrupted s
    | some hs =>
      if hs.length ≠ hdr.hub.toNat then raise .corrupted s
      else decodeLow f hdr { s with hs := s.hs.setSeq 0 hs }

/-- DECODE after its operand check (R109). -/
def decodeFrame (s : State) : Answer :=
  match parse s.inputFrame with
  | .error e => raise e s
  | .header hdr => decodeParsed s.inputFrame hdr s

/-- DECODE (R98, R109). -/
def execDecode (s : State) : Answer :=
  if s.role = .enc then raise .illegalCommand s
  else if s.badFrameLength then raise .badOperand s
  else decodeFrame (claimRole .dec s)

end Sys2Proof.Machine
end

