-- ==== Sys2Proof/Machine/Dispatch.lean ====
section
/-! DEFINITION. Every command's meaning, one arm each (R52). -/

namespace Sys2Proof.Machine

def exec (i : Instr) (s : State) : Host.Outcome State Fault Refusal :=
  match i with
  | .sreset => Sys2Proof.Machine.execSreset s
  | .quant => Sys2Proof.Machine.execQuant s
  | .dequant => Sys2Proof.Machine.execDequant s
  | .rescale => Sys2Proof.Machine.execRescale s
  | .unrescale => Sys2Proof.Machine.execUnrescale s
  | .filter => Sys2Proof.Machine.execFilter s
  | .unfilter => Sys2Proof.Machine.execUnfilter s
  | .fasm => Sys2Proof.Machine.execFasm s
  | .fparse => Sys2Proof.Machine.execFparse s
  | .isdepth => Sys2Proof.Machine.execIsdepth s
  | .iskey => Sys2Proof.Machine.execIskey s
  | .encode => Sys2Proof.Machine.execEncode s
  | .encodeK => Sys2Proof.Machine.execEncodeK s
  | .decode => Sys2Proof.Machine.execDecode s

end Sys2Proof.Machine
end

