-- ==== Sys2Proof/Machine/HostPort.lean ====
section
/-! DEFINITION. The host's side of the block: the register map (R18), issuing a command (R19), block reset (R138, R139) and
the moves of a host program (R55, R152), with the BUSY duty (R36, R123, R144). -/

namespace Sys2Proof.Machine

/-- The register number of a name (R18). -/
def regNumber : Reg → BitVec 6
  | .opN => 0x00
  | .opW => 0x01
  | .opH => 0x02
  | .opType => 0x03
  | .opMin => 0x04
  | .opMax => 0x05
  | .opFlen => 0x06
  | .opFn => 0x07
  | .opFlags => 0x08
  | .opHub => 0x09
  | .opHcb => 0x0A
  | .opLcb => 0x0B
  | .vp0 => 0x0C
  | .vp1 => 0x0D
  | .vp2 => 0x0E
  | .vp3 => 0x0F
  | .result => 0x10
  | .rKey => 0x11
  | .rHevc => 0x12
  | .rFn => 0x13
  | .rW => 0x14
  | .rH => 0x15
  | .rMin => 0x16
  | .rMax => 0x17
  | .rHub => 0x18
  | .rHcb => 0x19
  | .rLcb => 0x1A
  | .rLen => 0x1B
  | .rBool => 0x1C
  | .fcLo => 0x20
  | .fcHi => 0x21
  | .role => 0x22
  | .busy => 0x23
  | .cmd => 0x30

/-- The register a number names, or none: a reserved number (R18). -/
def regOfNumber (num : BitVec 6) : Option Reg :=
  match num.toNat with
  | 0x00 => some .opN
  | 0x01 => some .opW
  | 0x02 => some .opH
  | 0x03 => some .opType
  | 0x04 => some .opMin
  | 0x05 => some .opMax
  | 0x06 => some .opFlen
  | 0x07 => some .opFn
  | 0x08 => some .opFlags
  | 0x09 => some .opHub
  | 0x0A => some .opHcb
  | 0x0B => some .opLcb
  | 0x0C => some .vp0
  | 0x0D => some .vp1
  | 0x0E => some .vp2
  | 0x0F => some .vp3
  | 0x10 => some .result
  | 0x11 => some .rKey
  | 0x12 => some .rHevc
  | 0x13 => some .rFn
  | 0x14 => some .rW
  | 0x15 => some .rH
  | 0x16 => some .rMin
  | 0x17 => some .rMax
  | 0x18 => some .rHub
  | 0x19 => some .rHcb
  | 0x1A => some .rLcb
  | 0x1B => some .rLen
  | 0x1C => some .rBool
  | 0x20 => some .fcLo
  | 0x21 => some .fcHi
  | 0x22 => some .role
  | 0x23 => some .busy
  | 0x30 => some .cmd
  | _ => none

/-- What a register reads as while BUSY = 0: narrow registers zero-extended, CMD 0 (R18). -/
def readReg (r : Reg) (s : State) : Word :=
  match r with
  | .opN => s.op.n
  | .opW => s.op.w.setWidth 32
  | .opH => s.op.h.setWidth 32
  | .opType => s.op.type.setWidth 32
  | .opMin => s.op.min.setWidth 32
  | .opMax => s.op.max.setWidth 32
  | .opFlen => s.op.flen
  | .opFn => s.op.fn.setWidth 32
  | .opFlags => s.op.flags.setWidth 32
  | .opHub => s.op.hub
  | .opHcb => s.op.hcb
  | .opLcb => s.op.lcb
  | .vp0 => s.op.vp0
  | .vp1 => s.op.vp1
  | .vp2 => s.op.vp2
  | .vp3 => s.op.vp3
  | .result => s.result.code.setWidth 32
  | .rKey => s.resp.key.setWidth 32
  | .rHevc => s.resp.hevc.setWidth 32
  | .rFn => s.resp.fn.setWidth 32
  | .rW => s.resp.w.setWidth 32
  | .rH => s.resp.h.setWidth 32
  | .rMin => s.resp.min.setWidth 32
  | .rMax => s.resp.max.setWidth 32
  | .rHub => s.resp.hub
  | .rHcb => s.resp.hcb
  | .rLcb => s.resp.lcb
  | .rLen => s.resp.len
  | .rBool => s.resp.bool.setWidth 32
  | .fcLo => s.frameCount.extractLsb' 0 32
  | .fcHi => s.frameCount.extractLsb' 32 32
  | .role => s.role.code.setWidth 32
  | .busy => (BitVec.ofBool s.busy).setWidth 32
  | .cmd => 0

/-- Issues a command: latches the word and sets BUSY; how long BUSY stays 1 is a draw (R19, R137; log 1, log 2). -/
def issueCommand (w : Byte) (s : State) : State :=
  { s with cmd := w, busy := true, delay := Config.busyMoves s.draws, draws := s.draws + 1 }

/-- A host write while BUSY = 0: RW registers keep the low bits of the value, RO registers ignore it, CMD issues the
command (R18, R19, R152). -/
def writeReg (r : Reg) (v : Word) (s : State) : State :=
  match r with
  | .opN => { s with op := { s.op with n := v } }
  | .opW => { s with op := { s.op with w := v.setWidth 16 } }
  | .opH => { s with op := { s.op with h := v.setWidth 16 } }
  | .opType => { s with op := { s.op with type := v.setWidth 1 } }
  | .opMin => { s with op := { s.op with min := v.setWidth 16 } }
  | .opMax => { s with op := { s.op with max := v.setWidth 16 } }
  | .opFlen => { s with op := { s.op with flen := v } }
  | .opFn => { s with op := { s.op with fn := v.setWidth 16 } }
  | .opFlags => { s with op := { s.op with flags := v.setWidth 2 } }
  | .opHub => { s with op := { s.op with hub := v } }
  | .opHcb => { s with op := { s.op with hcb := v } }
  | .opLcb => { s with op := { s.op with lcb := v } }
  | .vp0 => { s with op := { s.op with vp0 := v } }
  | .vp1 => { s with op := { s.op with vp1 := v } }
  | .vp2 => { s with op := { s.op with vp2 := v } }
  | .vp3 => { s with op := { s.op with vp3 := v } }
  | .result | .rKey | .rHevc | .rFn | .rW | .rH | .rMin | .rMax | .rHub | .rHcb | .rLcb | .rLen | .rBool => s
  | .fcLo | .fcHi | .role | .busy => s
  | .cmd => issueCommand (v.setWidth 8) s

/-- A host write to a register number: a reserved number ignores it (R18, R34). -/
def writeNumber (num : BitVec 6) (v : Word) (s : State) : State :=
  match regOfNumber num with
  | none => s
  | some r => writeReg r v s

/-- What a register number reads as while BUSY = 0: a reserved number reads 0 (R18). -/
def readNumber (num : BitVec 6) (s : State) : Word :=
  match regOfNumber num with
  | none => 0
  | some r => readReg r s

/-- Records what the host has read. -/
def observe (v : Word) (s : State) : State := { s with seen := s.seen ++ [v] }

/-- A host read of `w` bits: the value, or a draw of that width while BUSY = 1 (R36, R144, R152; log 16). -/
def observeOrDraw (w : Nat) (v : Word) (s : State) : State :=
  if s.busy then observe (((Config.busyRead s.draws).setWidth w).setWidth 32) { s with draws := s.draws + 1 }
  else observe v s

/-- `rd <REG>`: BUSY itself is read truly at any time (R36). -/
def hostRead (num : BitVec 6) (s : State) : State :=
  if regOfNumber num = some .busy then observe (readReg .busy s) s else observeOrDraw 32 (readNumber num s) s

/-- Block reset (R138, R139): the block is as State.reset says, with a new draw for every buffer element. The parameters
and the host are not the block's (log 22). -/
def resetBlock (s : State) : State :=
  { State.reset with
    din := Memory.fresh 16 s.draws
    dout := Memory.fresh 16 (s.draws + 1)
    cbuf := Memory.fresh 16 (s.draws + 2)
    hbuf := Memory.fresh 8 (s.draws + 3)
    lbuf := Memory.fresh 8 (s.draws + 4)
    fin := Memory.fresh 8 (s.draws + 5)
    fout := Memory.fresh 8 (s.draws + 6)
    hs := Memory.fresh 8 (s.draws + 7)
    ls := Memory.fresh 8 (s.draws + 8)
    params := s.params
    draws := s.draws + 9
    prog := s.prog
    seen := s.seen }

/-- Whether R152's table has a host access to this element. -/
def hostReaches (space : Space) (a : Nat) (s : State) : Bool :=
  hostVisible space && a < capacityOf s.params.frameCap space

/-- A host write of one element (R152). -/
def hostStore (space : Space) (a : Nat) (v : Word) (s : State) : Answer :=
  if hostReaches space a s && v.toNat < 2 ^ elementWidth space then .next (writeElement space a v s)
  else .refused .hostAccess

/-- A host read of one element (R152). -/
def hostLoad (space : Space) (a : Nat) (s : State) : Answer :=
  if hostReaches space a s then .next (observeOrDraw (elementWidth space) (readElement space a s) s)
  else .refused .hostAccess

/-- One move of the host: one register access, one element access, one look at BUSY, or one expansion of a statement
(R34, R55; log 15). A write or a reset while BUSY = 1 is the fault HostProtocol (R123, R138); so is a buffer write that is
also outside R152's table, where the spec gives no order and the model looks at BUSY first: the model's choice, log 14. With
no statement left the block is idle (R136; log 4). -/
def hostMove (s : State) : Answer :=
  match s.prog with
  | [] => .next s
  | .wr num v :: rest =>
    if s.busy then .fault .hostProtocol else .next (writeNumber num v { s with prog := rest })
  | .rd num :: rest => .next (hostRead num { s with prog := rest })
  | .st _ _ [] :: rest => .next { s with prog := rest }
  | .st space a (v :: vs) :: rest =>
    if s.busy then .fault .hostProtocol
    else hostStore space a v { s with prog := .st space (a + 1) vs :: rest }
  | .ld space a b :: rest =>
    if a < b then hostLoad space a { s with prog := .ld space (a + 1) b :: rest }
    else .next { s with prog := rest }
  | .stSeen space a n :: rest =>
    .next { s with prog := .st space a (s.seen.drop (s.seen.length - n)) :: rest }
  | .mv dst a src b c :: rest =>
    .next { s with prog := .ld src b c :: .stSeen dst a (c - b) :: rest }
  | .wait :: rest => if s.busy then .next s else .next { s with prog := rest }
  | .blockReset :: rest =>
    if s.busy then .fault .hostProtocol else .next (resetBlock { s with prog := rest })

end Sys2Proof.Machine
end

