-- ==== Sys2Proof/Machine/Command.lean ====
section
/-! DEFINITION. The core's move: running the command in the CMD latch (R19), and who moves next (R7). -/

namespace Sys2Proof.Machine

/-- The core runs the latched command to completion; an illegal word raises IllegalCommand (R19, R53, R119). -/
def runCommand (s : State) : Answer :=
  match decode s.cmd with
  | .ok i => exec i s
  | .error _ => raise .illegalCommand s

/-- The core moves next: a command is running and no host move is to fall into its BUSY time (log 2). -/
def State.coreMoves (s : State) : Bool := s.busy && (s.delay == 0 || s.prog.isEmpty)

/-- Uses up one of the host moves that fit into BUSY = 1. -/
def spendDelay (s : State) : State := if s.busy then { s with delay := s.delay - 1 } else s

/-- One move of the machine: of the core, or of the host. -/
def moveNext (s : State) : Answer :=
  if s.coreMoves then runCommand s else hostMove (spendDelay s)

/-- Puts a command word where the core takes its next command: the CMD latch, with BUSY = 1, no host move pending in the
BUSY time and no model fault recorded (log 3). -/
def loadCommand (w : Byte) (s : State) : State :=
  { s with cmd := w, busy := true, delay := 0, faultRec := none }

end Sys2Proof.Machine
end

