-- ==== Sys2Proof/Machine/Step.lean ====
section
/-! DEFINITION. One step of the machine, and placing a command word for it. -/

namespace Sys2Proof.Machine

/-- One step: a recorded model fault is sticky (R125); else the next move. -/
def step (s : State) : Host.Outcome State Fault Refusal :=
  match s.faultRec with
  | some r => .fault r
  | none => moveNext s

/-- `s` with a command word in the CMD latch, so that the very next step runs it (log 3). -/
def State.withFetchWord (s : State) (_nbits w : Nat) : State := loadCommand (BitVec.ofNat 8 w) s

end Sys2Proof.Machine
end

