-- ==== Sys2Proof/Safety.lean ====
section
/-! DEFINITION. What a safe run is, in the spec's terms: the invariant of the block's storage, a run that records its model
faults, and the end of a run (R125, R153). -/

namespace Sys2Proof.Machine

/-- Every address space is in canonical form and lists no index beyond its capacity (R27, R28). -/
structure State.MemoryInv (s : State) : Prop where
  din : s.din.wf ∧ s.din.within (capacityOf s.params.frameCap .din)
  dout : s.dout.wf ∧ s.dout.within (capacityOf s.params.frameCap .dout)
  cbuf : s.cbuf.wf ∧ s.cbuf.within (capacityOf s.params.frameCap .cbuf)
  hbuf : s.hbuf.wf ∧ s.hbuf.within (capacityOf s.params.frameCap .hbuf)
  lbuf : s.lbuf.wf ∧ s.lbuf.within (capacityOf s.params.frameCap .lbuf)
  fin : s.fin.wf ∧ s.fin.within (capacityOf s.params.frameCap .fin)
  fout : s.fout.wf ∧ s.fout.within (capacityOf s.params.frameCap .fout)
  hs : s.hs.wf ∧ s.hs.within (capacityOf s.params.frameCap .hs)
  ls : s.ls.wf ∧ s.ls.within (capacityOf s.params.frameCap .ls)

/-- The invariant of the machine: sound storage (R27, R28), a legal FRAME_CAP (R6), and no encode in flight between
commands (R25). -/
structure State.Inv (s : State) : Prop where
  memory : s.MemoryInv
  params : s.params.Legal
  idle : s.eif = false

/-- Records a model fault (R10, R125). -/
def State.recordFault (r : Fault) (s : State) : State := { s with faultRec := some r }

/-- One step of a run, with a model fault recorded. A refused step leaves the run where it is: the model has no step there. -/
def advance (s : State) : State :=
  match step s with
  | .next t => t
  | .fault r => s.recordFault r
  | .refused _ => s

/-- A run of `n` steps. -/
def runFor : Nat → State → State
  | 0, s => s
  | n + 1, s => runFor n (advance s)

/-- The end of a run (R153): the host is done, BUSY = 0, no encode in flight, no model fault recorded. -/
structure State.Final (s : State) : Prop where
  hostDone : s.prog = []
  notBusy : s.busy = false
  noEncode : s.eif = false
  noFault : s.faultRec = none

/-- A safe run: no model fault is ever recorded. -/
def State.Safe (s : State) : Prop := ∀ n, (runFor n s).faultRec = none

/-- The width of a register, from R18's table, for the statements to compare the register operations with. -/
def regBits : Reg → Nat
  | .opType | .rKey | .rHevc | .rBool | .busy => 1
  | .opFlags | .role => 2
  | .result | .cmd => 8
  | .opW | .opH | .opMin | .opMax | .opFn | .rFn | .rW | .rH | .rMin | .rMax => 16
  | .opN | .opFlen | .opHub | .opHcb | .opLcb | .vp0 | .vp1 | .vp2 | .vp3 => 32
  | .rHub | .rHcb | .rLcb | .rLen | .fcLo | .fcHi => 32

/-- The registers R18's table marks RW. -/
def regWritable : Reg → Bool
  | .opN | .opW | .opH | .opType | .opMin | .opMax | .opFlen | .opFn | .opFlags | .opHub | .opHcb | .opLcb => true
  | .vp0 | .vp1 | .vp2 | .vp3 => true
  | _ => false

/-- The commands of units C1 to C4 (R147: QUANT to ISKEY). -/
def isUnitCommand : Instr → Bool
  | .quant | .dequant | .rescale | .unrescale | .filter | .unfilter | .fasm | .fparse | .isdepth | .iskey => true
  | .sreset | .encode | .encodeK | .decode => false

/-- A job ENCODE hands to the encoder: a legal even size, and a plane with its chroma scratch (R45, R103). -/
abbrev ProperJob (job : EncodeJob) : Prop :=
  (1 ≤ job.width ∧ job.width ≤ maxDim) ∧ (1 ≤ job.height ∧ job.height ≤ maxDim) ∧ job.width * job.height % 2 = 0 ∧
    job.plane.length = job.width * job.height + job.width * job.height / 2

/-- The named property VC-KEY (R47), about the codec a machine's parameters choose. `ready` are the contexts that accept
non-keyframes, and `keyBits` and `interBits` say which decode jobs carry a keyframe and which a non-keyframe, as the spec
does not read the bitstream. `interJobs` says which encodes are subsequent non-keyframes of the keyframe's stream: the spec
does not say whether one of another size, codec type or VPARAMS is, so the claim gives it; that all four are the claim's to
give is the model's choice, log 26. A successful encode or decode of a keyframe leads into `ready`;
from there a non-keyframe is encoded and decoded with success, and the context stays in `ready`. A failed encode (no bits,
R45) or decode (a plane not of N bytes counts as one, R46) is promised nothing (R149). VC-KEY is not built in: a claim that
needs it takes it as a premise. -/
structure VcKey (p : Params) (ready : Vctx → Prop) (keyBits interBits : DecodeJob → Prop) (interJobs : EncodeJob → Prop) :
    Prop where
  afterEncode : ∀ draw ctx job, ProperJob job → job.key = true → (encodeAnswer p draw ctx job).bits ≠ [] →
    ready (encodeAnswer p draw ctx job).ctx
  afterDecode : ∀ draw ctx job plane, keyBits job → (decodeAnswer p draw ctx job).plane = some plane →
    plane.length = job.width * job.height → ready (decodeAnswer p draw ctx job).ctx
  acceptsEncode : ∀ draw ctx job, ProperJob job → job.key = false → interJobs job → ready ctx →
    (encodeAnswer p draw ctx job).bits ≠ [] ∧ ready (encodeAnswer p draw ctx job).ctx
  acceptsDecode : ∀ draw ctx job, interBits job → ready ctx →
    (∃ plane, (decodeAnswer p draw ctx job).plane = some plane ∧ plane.length = job.width * job.height) ∧
      ready (decodeAnswer p draw ctx job).ctx

end Sys2Proof.Machine
end

