-- ==== Sys2Proof/Certificates/Slice0/Obligations.lean ====
section
/-! DEFINITION. The statements for the provers, each from the rules its docstring names. -/

open Sys2Proof Sys2Proof.Machine

/-! Command words, steps and reset. -/

/-- R19 (derived; the latch and the two phases are log 1's choice, `delay` log 2's, the placed word log 3's): while BUSY = 1, with no host move to fall into the BUSY time and no model fault
recorded, a step is the latched command's meaning, or IllegalCommand for an illegal word; and it is so right after a word is
placed. -/
def Obligations.StepRunsTheLatchedCommand : Prop :=
  (∀ (s : State) (i : Instr), s.faultRec = none → s.busy = true → (s.delay = 0 ∨ s.prog = []) →
    decode s.cmd = .ok i → step s = exec i s) ∧
  (∀ s : State, s.faultRec = none → s.busy = true → (s.delay = 0 ∨ s.prog = []) →
    (∃ e, decode s.cmd = .error e) → step s = .next { s with result := .illegalCommand, busy := false }) ∧
  (∀ (s : State) (nbits w : Nat) (i : Instr), decode (BitVec.ofNat 8 w) = .ok i →
    step (s.withFetchWord nbits w) = exec i (s.withFetchWord nbits w))

/-- R53: which words are illegal, and that running one changes only RESULT (and ends the command, R19). -/
def Obligations.IllegalWordChangesOnlyResult : Prop :=
  (∀ w : Byte, (∃ e, decode w = .error e) ↔
    (0xD ≤ w.toNat % 16 ∨ w.toNat / 32 ≠ 0 ∨ (w.toNat / 16 % 2 = 1 ∧ w.toNat % 16 ≠ 0xB))) ∧
  (∀ s : State, (∃ e, decode s.cmd = .error e) →
    runCommand s = .next { s with result := .illegalCommand, busy := false })

/-- R52: words written out from the opcode map decode to their commands. -/
def Obligations.OpcodeMapWords : Prop :=
  decode 0b00000000#8 = .ok .sreset ∧ decode 0b00000001#8 = .ok .quant ∧ decode 0b00000010#8 = .ok .dequant ∧
  decode 0b00000011#8 = .ok .rescale ∧ decode 0b00000100#8 = .ok .unrescale ∧ decode 0b00000101#8 = .ok .filter ∧
  decode 0b00000110#8 = .ok .unfilter ∧ decode 0b00000111#8 = .ok .fasm ∧ decode 0b00001000#8 = .ok .fparse ∧
  decode 0b00001001#8 = .ok .isdepth ∧ decode 0b00001010#8 = .ok .iskey ∧ decode 0b00001011#8 = .ok .encode ∧
  decode 0b00011011#8 = .ok .encodeK ∧ decode 0b00001100#8 = .ok .decode

/-- R51, R52, R54: decoding an encoded command gives it back, and every word that decodes is the encoding of what it
decodes to: no two words share a command and no bit is dropped. -/
def Obligations.DecodeInvertsEncode : Prop :=
  (∀ i : Instr, i.wf = true ∧ decode (encode i) = .ok i) ∧
  (∀ (w : Byte) (i : Instr), decode w = .ok i → encode i = w)

/-- R139: the reset state. A buffer element that is a draw is one nothing has been stored for. -/
def Obligations.ResetState : Prop :=
  (∀ num : BitVec 6, readNumber num State.reset = 0) ∧
  State.reset.frameCount = 0 ∧ State.reset.role = .none ∧ State.reset.busy = false ∧ State.reset.result = .success ∧
  State.reset.op = ⟨0, 0, 0, 0, 0, 0, 0, 0, 0, 0, 0, 0, 0, 0, 0, 0⟩ ∧
  State.reset.resp = ⟨0, 0, 0, 0, 0, 0, 0, 0, 0, 0, 0, 0⟩ ∧
  State.reset.din.cells = [] ∧ State.reset.dout.cells = [] ∧ State.reset.cbuf.cells = [] ∧
  State.reset.hbuf.cells = [] ∧ State.reset.lbuf.cells = [] ∧ State.reset.fin.cells = [] ∧
  State.reset.fout.cells = [] ∧ State.reset.hs.cells = [] ∧ State.reset.ls.cells = [] ∧
  State.reset.vctx = Config.vcInit ∧ State.reset.eif = false ∧ State.reset.faultRec = none ∧
  exec .quant State.reset = .next State.reset ∧
  exec .encode State.reset = .next { State.reset with result := .badOperand }

/-- R6, R25, R27 (derived): the reset state meets the invariant. -/
def Obligations.ResetMeetsTheMachineInvariant : Prop := State.reset.Inv

/-- R6, R25, R27, R28 (derived): every step keeps the invariant: each of the nine address spaces stays in canonical form and
below its capacity, FRAME_CAP stays legal, and no encode is in flight between commands. -/
def Obligations.StepKeepsTheMachineInvariant : Prop :=
  ∀ s t : State, s.Inv → step s = .next t → t.Inv

/-- R17, R18, R19, R62 (derived; that RESULT and ROLE are named values is log 13's choice): registers 0x10, 0x22 and 0x23
read as the codes of RESULT, ROLE and BUSY; RESULT never reads a reserved code, and ROLE never reads 3. -/
def Obligations.ResultAndRoleCodes : Prop :=
  (∀ s : State, readNumber 0x10 s = s.result.code.setWidth 32 ∧ readNumber 0x22 s = s.role.code.setWidth 32 ∧
    readNumber 0x23 s = (if s.busy then 1 else 0)) ∧
  (∀ s : State, (readNumber 0x10 s).toNat ≤ 6 ∧ (readNumber 0x22 s).toNat ≤ 2) ∧
  [Result.success, .fileTruncated, .wrongFormat, .corrupted, .missingFrame, .illegalCommand, .badOperand].map Result.code
    = [0, 1, 2, 3, 4, 5, 6] ∧
  [Role.none, .enc, .dec].map Role.code = [0, 1, 2]

/-! Quantizer. -/

/-- R64: the band table, with the range of each band. -/
def Obligations.QuantizerBands : Prop :=
  ∀ d : Half,
    (d.toNat ≤ 200 → quant d = 0) ∧
    (200 < d.toNat → d.toNat < 750 → (quant d).toNat = d.toNat - 200 ∧ 1 ≤ (quant d).toNat ∧ (quant d).toNat < 550) ∧
    (750 ≤ d.toNat → d.toNat < 1500 →
      (quant d).toNat = 550 + (d.toNat - 750) / 2 ∧ 550 ≤ (quant d).toNat ∧ (quant d).toNat < 925) ∧
    (1500 ≤ d.toNat → d.toNat < 3000 →
      (quant d).toNat = 925 + (d.toNat - 1500) / 4 ∧ 925 ≤ (quant d).toNat ∧ (quant d).toNat < 1300) ∧
    (3000 ≤ d.toNat → d.toNat < 6000 →
      (quant d).toNat = 1300 + (d.toNat - 3000) / 8 ∧ 1300 ≤ (quant d).toNat ∧ (quant d).toNat < 1675) ∧
    (6000 ≤ d.toNat → d.toNat < 11840 →
      (quant d).toNat = 1675 + (d.toNat - 6000) / 16 ∧ 1675 ≤ (quant d).toNat ∧ (quant d).toNat < 2040) ∧
    (11840 ≤ d.toNat → quant d = 0)

/-- R65: the inverse table; on [1, 2039] it gives the smallest depth with that code; no result exceeds 11824. -/
def Obligations.DequantIsTheSmallestPreimage : Prop :=
  (∀ q : Half, dequant q =
    if q.toNat = 0 ∨ 2040 ≤ q.toNat then 0
    else if q.toNat < 550 then BitVec.ofNat 16 (q.toNat + 200)
    else if q.toNat < 925 then BitVec.ofNat 16 (750 + (q.toNat - 550) * 2)
    else if q.toNat < 1300 then BitVec.ofNat 16 (1500 + (q.toNat - 925) * 4)
    else if q.toNat < 1675 then BitVec.ofNat 16 (3000 + (q.toNat - 1300) * 8)
    else BitVec.ofNat 16 (6000 + (q.toNat - 1675) * 16)) ∧
  (∀ q : Half, 1 ≤ q.toNat → q.toNat ≤ 2039 →
    quant (dequant q) = q ∧ ∀ d : Half, quant d = q → (dequant q).toNat ≤ d.toNat) ∧
  (∀ q : Half, (dequant q).toNat ≤ 11824)

/-- R66: range, monotonicity, coverage, the error bound per band, and where depths become the sentinel. -/
def Obligations.QuantizerProperties : Prop :=
  (∀ d : Half, (quant d).toNat ≤ 2039) ∧
  (∀ d e : Half, 201 ≤ d.toNat → d.toNat < e.toNat → e.toNat ≤ 11839 → (quant d).toNat ≤ (quant e).toNat) ∧
  (∀ q : Half, 1 ≤ q.toNat → q.toNat ≤ 2039 → ∃ d : Half, 201 ≤ d.toNat ∧ d.toNat ≤ 11839 ∧ quant d = q) ∧
  (∀ d : Half, 201 ≤ d.toNat → d.toNat ≤ 11839 →
    (dequant (quant d)).toNat ≤ d.toNat ∧
    d.toNat - (dequant (quant d)).toNat ≤
      (if d.toNat < 750 then 1 else if d.toNat < 1500 then 2 else if d.toNat < 3000 then 4
        else if d.toNat < 6000 then 8 else 16) - 1) ∧
  (∀ d : Half, quant d = 0 ↔ d.toNat ≤ 200 ∨ 11840 ≤ d.toNat)

/-- R68: QUANT. -/
def Obligations.QuantWritesCodes : Prop :=
  (∀ s : State, s.op.n.toNat ≤ nMax → ∃ t, exec .quant s = .next t ∧
    t = { s with cbuf := t.cbuf, result := .success, busy := false } ∧
    ∀ i, t.cbuf.get i = if i < s.op.n.toNat then quant (s.din.get i) else s.cbuf.get i) ∧
  (∀ s : State, nMax < s.op.n.toNat → exec .quant s = .next { s with result := .badOperand, busy := false })

/-- R69: DEQUANT. -/
def Obligations.DequantWritesDepths : Prop :=
  (∀ s : State, s.op.n.toNat ≤ nMax → ∃ t, exec .dequant s = .next t ∧
    t = { s with dout := t.dout, result := .success, busy := false } ∧
    ∀ i, t.dout.get i = if i < s.op.n.toNat then dequant (s.cbuf.get i) else s.dout.get i) ∧
  (∀ s : State, nMax < s.op.n.toNat → exec .dequant s = .next { s with result := .badOperand, busy := false })

/-! Rescaler. -/

/-- R70: the algorithm, with mn and mx characterised as the smallest and largest non-zero code, and the bound on the
intermediate values. -/
def Obligations.RescaleFollowsItsSteps : Prop :=
  (∀ c : List Half, (∀ v ∈ c, v = 0) → rescale c = ⟨c, 0, 0⟩) ∧
  (∀ (c : List Half) (mn mx : Half), mn ∈ c → mx ∈ c → mn ≠ 0 → mx ≠ 0 →
    (∀ v ∈ c, v ≠ 0 → mn.toNat ≤ v.toNat ∧ v.toNat ≤ mx.toNat) →
    (rescale c).min = mn ∧ (rescale c).max = mx ∧ (rescale c).codes.length = c.length ∧
    ∀ i, i < c.length →
      ((rescale c).codes.getD i 0).toNat =
        let v := (c.getD i 0).toNat
        let range := mx.toNat - mn.toNat + 1
        if 2048 ≤ range ∨ v = 0 then v
        else if range ≤ 1 then 1
        else ((v - mn.toNat) * 2047 + range / 2) / range + 1) ∧
  (∀ mn mx v : Half, mn.toNat ≤ v.toNat → v.toNat ≤ mx.toNat → mx.toNat - mn.toNat + 1 < 2048 →
    (v.toNat - mn.toNat) * 2047 + (mx.toNat - mn.toNat + 1) / 2 < 2 ^ 23)

/-- R71: where the outputs lie: in [1, 2047], the smallest code on 1, and the largest on 2047 exactly from range 1365 on. -/
def Obligations.RescaleOutputRange : Prop :=
  ∀ (c : List Half) (mn mx : Half), mn ∈ c → mx ∈ c → mn ≠ 0 →
    (∀ v ∈ c, v ≠ 0 → mn.toNat ≤ v.toNat ∧ v.toNat ≤ mx.toNat) →
    2 ≤ mx.toNat - mn.toNat + 1 → mx.toNat - mn.toNat + 1 ≤ 2047 →
    ∀ i, i < c.length →
      (c.getD i 0 ≠ 0 → 1 ≤ ((rescale c).codes.getD i 0).toNat ∧ ((rescale c).codes.getD i 0).toNat ≤ 2047) ∧
      (c.getD i 0 = 0 → (rescale c).codes.getD i 0 = 0) ∧
      (c.getD i 0 = mn → (rescale c).codes.getD i 0 = 1) ∧
      (c.getD i 0 = mx → ((rescale c).codes.getD i 0 = 2047 ↔ 1365 ≤ mx.toNat - mn.toNat + 1))

/-- R74: unrescale undoes rescale on every code vector; and a lossy code 2047 overshoots to mx + 1 exactly for ranges from 2
to 1023. -/
def Obligations.UnrescaleUndoesRescale : Prop :=
  (∀ c : List Half, unrescale (rescale c).codes (rescale c).min (rescale c).max = c) ∧
  (∀ mn mx : Half, mn.toNat < mx.toNat → mx.toNat - mn.toNat + 1 ≤ 2047 → mx.toNat < 65535 →
    ((unrescale [2047] mn mx = [mx + 1]) ↔ mx.toNat - mn.toNat + 1 ≤ 1023))

/-- R76: RESCALE. -/
def Obligations.RescaleWritesCodesAndSideData : Prop :=
  (∀ s : State, s.op.n.toNat ≤ nMax → ∃ t, exec .rescale s = .next t ∧
    t = { s with
      cbuf := t.cbuf
      resp := { s.resp with
        min := (rescale (s.cbuf.getSeq 0 s.op.n.toNat)).min
        max := (rescale (s.cbuf.getSeq 0 s.op.n.toNat)).max }
      result := .success, busy := false } ∧
    ∀ i, t.cbuf.get i =
      if i < s.op.n.toNat then (rescale (s.cbuf.getSeq 0 s.op.n.toNat)).codes.getD i 0 else s.cbuf.get i) ∧
  (∀ s : State, nMax < s.op.n.toNat → exec .rescale s = .next { s with result := .badOperand, busy := false })

/-- R77, with R73's formula written out over the integers. -/
def Obligations.UnrescaleWritesCodes : Prop :=
  (∀ s : State, s.op.n.toNat ≤ nMax → ∃ t, exec .unrescale s = .next t ∧
    t = { s with cbuf := t.cbuf, result := .success, busy := false } ∧
    ∀ i, ((t.cbuf.get i).toNat : Int) =
      let v : Int := (s.cbuf.get i).toNat
      let mn : Int := s.op.min.toNat
      let range : Int := (s.op.max.toNat : Int) - mn + 1
      if s.op.n.toNat ≤ i ∨ 2048 ≤ range ∨ v = 0 then v
      else if range ≤ 1 then (v - 1 + mn) % 65536
      else (((v - 1) * range + 1023) / 2047 + mn) % 65536) ∧
  (∀ s : State, nMax < s.op.n.toNat → exec .unrescale s = .next { s with result := .badOperand, busy := false })

/-! Filter. -/

/-- R61: low byte i of the low stream belongs to sample i, and is decided by bit 8 of its code. -/
def Obligations.LowByteFoldsOnBitEight : Prop :=
  (∀ (codes : List Half) (i : Nat), i < codes.length → (filterLow codes)[i]? = some (lowByte (codes.getD i 0))) ∧
  (∀ c : Half,
    (c = 0 → lowByte c = 0) ∧
    (c ≠ 0 → c.getLsbD 8 = false → (lowByte c).toNat = c.toNat % 256) ∧
    (c ≠ 0 → c.getLsbD 8 = true → (lowByte c).toNat = 255 - c.toNat % 256))

/-- R60, R79 (derived): the nibble of a code: 0 for the sentinel, raw_high + 1, from 1 to 8, for any other code up to 2047. -/
def Obligations.HighNibbleReservesTheSentinel : Prop :=
  ∀ c : Half, c.toNat ≤ 2047 →
    (highNibble c = 0 ↔ c = 0) ∧ (c ≠ 0 → (highNibble c).toNat = c.toNat / 256 + 1 ∧ (highNibble c).toNat ≤ 8)

/-- R81 and R82: sample i takes its nibble from high byte i / 2, lane i mod 2; the code of one lane, with the clamp on
nibble 1 with low byte 0 and nowhere else; it is at most 3839, and at least 1 when the nibble is. -/
def Obligations.UnfilterLaneFormula : Prop :=
  (∀ (hs ls : List Byte) (i : Nat), ls.length = 2 * hs.length → i < ls.length →
    (unfilter hs ls).length = ls.length ∧
    (unfilter hs ls)[i]? = some (unfilterCode ((hs.getD (i / 2) 0).extractLsb' (4 * (i % 2)) 4) (ls.getD i 0))) ∧
  ∀ (h : BitVec 4) (lo : Byte),
    (unfilterCode h lo).toNat =
      (if h.toNat = 0 then 0
       else if h.toNat = 1 ∧ lo.toNat = 0 then 1
       else (h.toNat - 1) * 256 + (if (h.toNat - 1) % 2 = 1 then 255 - lo.toNat else lo.toNat)) ∧
    (unfilterCode h lo).toNat ≤ 3839 ∧ (1 ≤ h.toNat → 1 ≤ (unfilterCode h lo).toNat)

/-- R83: the round trip, zero preservation, error confinement, and that the source's exception cannot arise. -/
def Obligations.FilterRoundTripAndConfinement : Prop :=
  (∀ c : List Half, c.length % 2 = 0 → (∀ v ∈ c, v.toNat ≤ 2047) → unfilter (filterHigh c) (filterLow c) = c) ∧
  (∀ (h : BitVec 4) (lo : Byte), unfilterCode h lo = 0 ↔ h = 0) ∧
  (∀ (h : BitVec 4) (lo lo' : Byte), h ≠ 0 → (unfilterCode h lo).toNat / 256 = h.toNat - 1 ∧
    (¬ (h = 1 ∧ (lo = 0 ∨ lo' = 0)) →
      ((unfilterCode h lo).toNat : Int) - (unfilterCode h lo').toNat = (lo.toNat : Int) - lo'.toNat ∨
      ((unfilterCode h lo).toNat : Int) - (unfilterCode h lo').toNat = (lo'.toNat : Int) - lo.toNat)) ∧
  (∀ v : Half, v.toNat ≤ 2047 → ¬ (highNibble v = 1 ∧ lowByte v = 0))

/-- R84: FILTER. -/
def Obligations.FilterWritesBothStreams : Prop :=
  (∀ s : State, s.op.n.toNat ≤ nMax → s.op.n.toNat % 2 = 0 → (∀ i, i < s.op.n.toNat → (s.cbuf.get i).toNat ≤ 2047) →
    ∃ t, exec .filter s = .next t ∧
    t = { s with hbuf := t.hbuf, lbuf := t.lbuf, result := .success, busy := false } ∧
    (∀ k, t.hbuf.get k =
      if k < s.op.n.toNat / 2 then highNibble (s.cbuf.get (2 * k + 1)) ++ highNibble (s.cbuf.get (2 * k))
      else s.hbuf.get k) ∧
    (∀ i, t.lbuf.get i = if i < s.op.n.toNat then lowByte (s.cbuf.get i) else s.lbuf.get i)) ∧
  (∀ s : State, (nMax < s.op.n.toNat ∨ s.op.n.toNat % 2 = 1 ∨ ∃ i, i < s.op.n.toNat ∧ 2047 < (s.cbuf.get i).toNat) →
    exec .filter s = .next { s with result := .badOperand, busy := false })

/-- R85: UNFILTER. -/
def Obligations.UnfilterWritesCodes : Prop :=
  (∀ s : State, s.op.n.toNat ≤ nMax → s.op.n.toNat % 2 = 0 → ∃ t, exec .unfilter s = .next t ∧
    t = { s with cbuf := t.cbuf, result := .success, busy := false } ∧
    ∀ i, t.cbuf.get i =
      if i < s.op.n.toNat then unfilterCode ((s.hbuf.get (i / 2)).extractLsb' (4 * (i % 2)) 4) (s.lbuf.get i)
      else s.cbuf.get i) ∧
  (∀ s : State, (nMax < s.op.n.toNat ∨ s.op.n.toNat % 2 = 1) →
    exec .unfilter s = .next { s with result := .badOperand, busy := false })

/-! Framer. -/

/-- R87, with the fields read byte by byte, least significant first (R30): the five checks in order and the header. -/
def Obligations.ParseChecksInOrder : Prop :=
  ∀ f : List Byte,
    let b := fun o => (f.getD o 0).toNat
    let u16 := fun o => b o + 256 * b (o + 1)
    let u32 := fun o => b o + 256 * b (o + 1) + 65536 * b (o + 2) + 16777216 * b (o + 3)
    if f.length < 26 then parse f = .error .fileTruncated
    else if b 0 ≠ 0xCA then parse f = .error .wrongFormat
    else if u32 12 < 2 then parse f = .error .corrupted
    else if f.length ≠ 26 + u32 16 + u32 20 then parse f = .error .fileTruncated
    else if ¬ (1 ≤ u16 4 ∧ u16 4 ≤ 4096 ∧ 1 ≤ u16 6 ∧ u16 6 ≤ 4096) then parse f = .error .corrupted
    else ∃ r, parse f = .header r ∧
      r.key.toNat = b 1 % 2 ∧ r.hevc.toNat = b 1 / 2 % 2 ∧ r.fn.toNat = u16 2 ∧ r.w.toNat = u16 4 ∧ r.h.toNat = u16 6 ∧
      r.min.toNat = u16 8 ∧ r.max.toNat = u16 10 ∧ r.hub.toNat = u32 12 ∧ r.hcb.toNat = u32 16 ∧ r.lcb.toNat = u32 20

/-- R86, R87, R90 (derived): a frame assembled from legal dimensions and HUB ≥ 2 parses to the fields it was given, and its
sections are the payloads. -/
def Obligations.ParseRecoversTheAssembledFrame : Prop :=
  ∀ (flags : BitVec 2) (fn w h mn mx : Half) (hub : Word) (hi lo : List Byte),
    1 ≤ w.toNat → w.toNat ≤ 4096 → 1 ≤ h.toNat → h.toNat ≤ 4096 → 2 ≤ hub.toNat →
    hi.length < 2 ^ 32 → lo.length < 2 ^ 32 →
    ∃ r, parse (assemble flags fn w h mn mx hub hi lo) = .header r ∧
      r = ⟨flags.extractLsb' 0 1, flags.extractLsb' 1 1, fn, w, h, mn, mx, hub,
        BitVec.ofNat 32 hi.length, BitVec.ofNat 32 lo.length⟩ ∧
      highSection (assemble flags fn w h mn mx hub hi lo) r = hi ∧
      lowSection (assemble flags fn w h mn mx hub hi lo) r = lo

/-- R93: FASM, with R86's frame written out byte by byte. -/
def Obligations.FasmWritesTheFrame : Prop :=
  (∀ s : State, s.op.hcb.toNat ≤ nMax / 2 → s.op.lcb.toNat ≤ nMax + nMax / 2 →
    26 + s.op.hcb.toNat + s.op.lcb.toNat ≤ s.params.frameCap →
    ∃ t, exec .fasm s = .next t ∧
    t = { s with
      fout := t.fout
      resp := { s.resp with len := BitVec.ofNat 32 (26 + s.op.hcb.toNat + s.op.lcb.toNat) }
      result := .success, busy := false } ∧
    t.fout.getSeq 0 26 =
      [0xCA, s.op.flags.setWidth 8, s.op.fn.setWidth 8, (s.op.fn >>> 8).setWidth 8, s.op.w.setWidth 8,
       (s.op.w >>> 8).setWidth 8, s.op.h.setWidth 8, (s.op.h >>> 8).setWidth 8, s.op.min.setWidth 8,
       (s.op.min >>> 8).setWidth 8, s.op.max.setWidth 8, (s.op.max >>> 8).setWidth 8, s.op.hub.setWidth 8,
       (s.op.hub >>> 8).setWidth 8, (s.op.hub >>> 16).setWidth 8, (s.op.hub >>> 24).setWidth 8, s.op.hcb.setWidth 8,
       (s.op.hcb >>> 8).setWidth 8, (s.op.hcb >>> 16).setWidth 8, (s.op.hcb >>> 24).setWidth 8, s.op.lcb.setWidth 8,
       (s.op.lcb >>> 8).setWidth 8, (s.op.lcb >>> 16).setWidth 8, (s.op.lcb >>> 24).setWidth 8, 0, 0] ∧
    (∀ i, 26 ≤ i → t.fout.get i =
      if i < 26 + s.op.hcb.toNat then s.hbuf.get (i - 26)
      else if i < 26 + s.op.hcb.toNat + s.op.lcb.toNat then s.lbuf.get (i - (26 + s.op.hcb.toNat))
      else s.fout.get i)) ∧
  (∀ s : State, (nMax / 2 < s.op.hcb.toNat ∨ nMax + nMax / 2 < s.op.lcb.toNat ∨
      s.params.frameCap < 26 + s.op.hcb.toNat + s.op.lcb.toNat) →
    exec .fasm s = .next { s with result := .badOperand, busy := false })

/-- R94: FPARSE. -/
def Obligations.FparseReportsTheHeader : Prop :=
  (∀ (s : State) (r : Header), s.op.flen.toNat ≤ s.params.frameCap →
    parse (s.fin.getSeq 0 s.op.flen.toNat) = .header r →
    exec .fparse s = .next { s with
      resp := ⟨r.key, r.hevc, r.fn, r.w, r.h, r.min, r.max, r.hub, r.hcb, r.lcb, s.op.flen, s.resp.bool⟩
      result := .success, busy := false }) ∧
  (∀ (s : State) (e : Result), s.op.flen.toNat ≤ s.params.frameCap →
    parse (s.fin.getSeq 0 s.op.flen.toNat) = .error e →
    exec .fparse s = .next { s with result := e, busy := false }) ∧
  (∀ s : State, s.params.frameCap < s.op.flen.toNat →
    exec .fparse s = .next { s with result := .badOperand, busy := false })

/-- R95: ISDEPTH. -/
def Obligations.IsdepthTestsLengthAndMagic : Prop :=
  (∀ s : State, s.op.flen.toNat ≤ s.params.frameCap →
    exec .isdepth s = .next { s with
      resp := { s.resp with bool := if 26 ≤ s.op.flen.toNat ∧ s.fin.get 0 = 0xCA then 1 else 0 }
      result := .success, busy := false }) ∧
  (∀ s : State, s.params.frameCap < s.op.flen.toNat →
    exec .isdepth s = .next { s with result := .badOperand, busy := false })

/-- R96: ISKEY. -/
def Obligations.IskeyTestsTheKeyframeFlag : Prop :=
  (∀ s : State, s.op.flen.toNat ≤ s.params.frameCap →
    exec .iskey s = .next { s with
      resp := { s.resp with
        bool := if 26 ≤ s.op.flen.toNat ∧ s.fin.get 0 = 0xCA ∧ (s.fin.get 1).toNat % 2 = 1 then 1 else 0 }
      result := .success, busy := false }) ∧
  (∀ s : State, s.params.frameCap < s.op.flen.toNat →
    exec .iskey s = .next { s with result := .badOperand, busy := false })

/-! Sequencer. -/

/-- R99: SRESET. An element of HS or LS that is a draw is one nothing has been stored for. -/
def Obligations.SresetStartsAFreshSession : Prop :=
  ∀ s : State, ∃ t, exec .sreset s = .next t ∧
    t = { s with
      frameCount := 0, role := .none, vctx := Config.vcInit, hs := t.hs, ls := t.ls, draws := t.draws
      result := .success, busy := false } ∧
    t.hs.cells = [] ∧ t.ls.cells = []

/-- R24, R38, R45, R48, R100, R101, R103 (derived; which draw an open value is, is log 9's and log 11's choice, and the free
context under VC-IDEAL log 25's): ENCODE and ENCODE.K on a session that is no decoder, with a legal image size and a frame
that fits: Success whatever the coders answer. The encoder is handed VPARAMS, the size, the codec type, the keyframe request
and LS[0 .. N + N/2), the low plane and a chroma scratch that is zero with CHROMA_FILL = Zero; its one answer gives the low
payload and VCTX, and the compressed high stream is the high payload; then the frame in FOUT, the count, the role and the
response registers. -/
def Obligations.EncodeEmitsOneFrame : Prop :=
  ∀ (i : Instr) (k : Bool) (s : State), (i = .encode ∧ k = false ∨ i = .encodeK ∧ k = true) →
    s.role ≠ .dec → 1 ≤ s.op.w.toNat → s.op.w.toNat ≤ 4096 → 1 ≤ s.op.h.toNat → s.op.h.toNat ≤ 4096 →
    (s.op.w.toNat * s.op.h.toNat) % 2 = 0 →
    let n := s.op.w.toNat * s.op.h.toNat
    let key := k || s.frameCount == 0
    let r := rescale ((s.din.getSeq 0 n).map quant)
    let chroma := if s.params.chromaFill = .zero then List.replicate (n / 2) 0
      else (List.range (n / 2)).map (Config.chromaBefore s.draws)
    let draw := if s.params.chromaFill = .zero then s.draws else s.draws + 1
    let job : EncodeJob := ⟨⟨s.op.vp0, s.op.vp1, s.op.vp2, s.op.vp3⟩, s.op.w.toNat, s.op.h.toNat,
      if s.op.type = 1 then .h265 else .h264, key, filterLow r.codes ++ chroma⟩
    let answer := Config.vcEncode draw s.vctx job
    let hi := ecCompress s.params (filterHigh r.codes)
    let lo := if s.params.videoCoder = .ideal then filterLow r.codes else answer.bits
    let f := assemble (s.op.type ++ BitVec.ofBool key) (s.frameCount.setWidth 16) s.op.w s.op.h r.min r.max
      (BitVec.ofNat 32 (n / 2)) hi lo
    26 + hi.length + lo.length ≤ s.params.frameCap →
    ∃ t, exec i s = .next t ∧
      t = { s with
        frameCount := s.frameCount + 1, role := .enc, fout := t.fout, hs := t.hs, ls := t.ls, vctx := answer.ctx
        encJob := none, draws := draw + 1, result := .success, busy := false
        resp := ⟨BitVec.ofBool key, s.op.type, s.frameCount.setWidth 16, s.op.w, s.op.h, r.min, r.max,
          BitVec.ofNat 32 (n / 2), BitVec.ofNat 32 hi.length, BitVec.ofNat 32 lo.length,
          BitVec.ofNat 32 (26 + hi.length + lo.length), s.resp.bool⟩ } ∧
      chroma.length = n / 2 ∧ f.length = 26 + hi.length + lo.length ∧
      ∀ a, t.fout.get a = if a < f.length then f.getD a 0 else s.fout.get a

/-- R48, R103 (derived; VCTX is free, log 25's choice): with EC-IDENTITY and VC-IDEAL, ENCODE and ENCODE.K complete on
hypotheses about the operands alone, and the payloads are the two streams of the filter. -/
def Obligations.EncodeWithStubCoders : Prop :=
  ∀ (i : Instr) (k : Bool) (s : State), (i = .encode ∧ k = false ∨ i = .encodeK ∧ k = true) →
    s.params.entropyCoder = .identity → s.params.videoCoder = .ideal →
    s.role ≠ .dec → 1 ≤ s.op.w.toNat → s.op.w.toNat ≤ 4096 → 1 ≤ s.op.h.toNat → s.op.h.toNat ≤ 4096 →
    (s.op.w.toNat * s.op.h.toNat) % 2 = 0 →
    let n := s.op.w.toNat * s.op.h.toNat
    let key := k || s.frameCount == 0
    let r := rescale ((s.din.getSeq 0 n).map quant)
    26 + n / 2 + n ≤ s.params.frameCap →
    ∃ t, exec i s = .next t ∧
      t = { s with
        frameCount := s.frameCount + 1, role := .enc, fout := t.fout, hs := t.hs, ls := t.ls, vctx := t.vctx
        encJob := none, draws := t.draws, result := .success, busy := false
        resp := ⟨BitVec.ofBool key, s.op.type, s.frameCount.setWidth 16, s.op.w, s.op.h, r.min, r.max,
          BitVec.ofNat 32 (n / 2), BitVec.ofNat 32 (n / 2), BitVec.ofNat 32 n,
          BitVec.ofNat 32 (26 + n / 2 + n), s.resp.bool⟩ } ∧
      t.fout.getSeq 0 (26 + n / 2 + n) =
        assemble (s.op.type ++ BitVec.ofBool key) (s.frameCount.setWidth 16) s.op.w s.op.h
          r.min r.max (BitVec.ofNat 32 (n / 2)) (filterHigh r.codes) (filterLow r.codes)

/-- R98, R103, R120 (derived): when ENCODE and ENCODE.K are refused, and that nothing but RESULT changes then. -/
def Obligations.EncodeRefusals : Prop :=
  ∀ (i : Instr) (s : State), (i = .encode ∨ i = .encodeK) →
    (s.role = .dec → exec i s = .next { s with result := .illegalCommand, busy := false }) ∧
    (s.role ≠ .dec →
      (s.op.w.toNat < 1 ∨ 4096 < s.op.w.toNat ∨ s.op.h.toNat < 1 ∨ 4096 < s.op.h.toNat ∨
        (s.op.w.toNat * s.op.h.toNat) % 2 = 1) →
      exec i s = .next { s with result := .badOperand, busy := false })

/-- R103, R124 (derived; which draw an open value is, is log 9's and log 11's choice): a frame that does not fit FRAME_CAP
is the model fault FrameOverflow, and ENCODE and ENCODE.K fault in no other case. -/
def Obligations.EncodeFaultsExactlyOnOverflow : Prop :=
  ∀ (i : Instr) (k : Bool) (s : State), (i = .encode ∧ k = false ∨ i = .encodeK ∧ k = true) →
    let n := s.op.w.toNat * s.op.h.toNat
    let key := k || s.frameCount == 0
    let r := rescale ((s.din.getSeq 0 n).map quant)
    let chroma := if s.params.chromaFill = .zero then List.replicate (n / 2) 0
      else (List.range (n / 2)).map (Config.chromaBefore s.draws)
    let draw := if s.params.chromaFill = .zero then s.draws else s.draws + 1
    let job : EncodeJob := ⟨⟨s.op.vp0, s.op.vp1, s.op.vp2, s.op.vp3⟩, s.op.w.toNat, s.op.h.toNat,
      if s.op.type = 1 then .h265 else .h264, key, filterLow r.codes ++ chroma⟩
    let answer := Config.vcEncode draw s.vctx job
    let hi := ecCompress s.params (filterHigh r.codes)
    let lo := if s.params.videoCoder = .ideal then filterLow r.codes else answer.bits
    (exec i s = .fault .frameOverflow ↔
      (s.role ≠ .dec ∧ 1 ≤ s.op.w.toNat ∧ s.op.w.toNat ≤ 4096 ∧ 1 ≤ s.op.h.toNat ∧ s.op.h.toNat ≤ 4096 ∧
        n % 2 = 0 ∧ s.params.frameCap < 26 + hi.length + lo.length)) ∧
    exec i s ≠ .fault .hostProtocol

/-- R92: the framer invariants of every frame ENCODE emits. -/
def Obligations.EmittedFrameInvariants : Prop :=
  ∀ (i : Instr) (k : Bool) (s t : State), (i = .encode ∧ k = false ∨ i = .encodeK ∧ k = true) → s.params.Legal →
    exec i s = .next t → t.result = .success →
    let f := t.fout.getSeq 0 t.resp.len.toNat
    f.getD 0 0 = 0xCA ∧
    f.length = 26 + (rd32 f 16).toNat + (rd32 f 20).toNat ∧
    isKeyFrame f = (k || s.frameCount == 0)

/-- R46, R48, R109 (derived; which draw the codec's answer is, is log 9's choice, and the free context under VC-IDEAL log
25's): DECODE of a frame that passes every check: Success, DOUT[0 .. N), the count, the role, VCTX and the response
registers. The codec is handed the header's size and type and the low section, and its one answer gives the plane and VCTX. -/
def Obligations.DecodeDeliversTheImage : Prop :=
  ∀ (s : State) (r : Header) (hs plane : List Byte),
    let f := s.fin.getSeq 0 s.op.flen.toNat
    let n := r.w.toNat * r.h.toNat
    let job : DecodeJob := ⟨r.w.toNat, r.h.toNat, if r.hevc = 1 then .h265 else .h264, lowSection f r⟩
    let answer := Config.vcDecode s.draws s.vctx job
    s.role ≠ .enc → s.op.flen.toNat ≤ s.params.frameCap → parse f = .header r → (r.key = 1 ∨ s.frameCount ≠ 0) →
    n % 2 = 0 → r.hub.toNat = n / 2 → r.hcb ≠ 0 → r.lcb ≠ 0 →
    ecDecompress s.params (highSection f r) r.hub.toNat = some hs → hs.length = r.hub.toNat →
    (if s.params.videoCoder = .ideal then some (lowSection f r) else answer.plane) = some plane → plane.length = n →
    ∃ t, exec .decode s = .next t ∧
      t = { s with
        frameCount := s.frameCount + 1, role := .dec, hs := t.hs, ls := t.ls, dout := t.dout
        vctx := answer.ctx, draws := t.draws, result := .success, busy := false
        resp := ⟨r.key, r.hevc, r.fn, r.w, r.h, r.min, r.max, r.hub, r.hcb, r.lcb, s.op.flen, s.resp.bool⟩ } ∧
      ∀ i, t.dout.get i =
        if i < n then dequant ((unrescale (unfilter hs plane) r.min r.max).getD i 0) else s.dout.get i

/-- R48, R109 (derived; VCTX is free, log 25's choice): with EC-IDENTITY and VC-IDEAL, DECODE completes on hypotheses about
the frame and the operands alone, and the image is that of the frame's two sections. -/
def Obligations.DecodeWithStubCoders : Prop :=
  ∀ (s : State) (r : Header),
    let f := s.fin.getSeq 0 s.op.flen.toNat
    let n := r.w.toNat * r.h.toNat
    s.params.entropyCoder = .identity → s.params.videoCoder = .ideal →
    s.role ≠ .enc → s.op.flen.toNat ≤ s.params.frameCap → parse f = .header r → (r.key = 1 ∨ s.frameCount ≠ 0) →
    n % 2 = 0 → r.hub.toNat = n / 2 → r.hcb.toNat = n / 2 → r.lcb.toNat = n →
    ∃ t, exec .decode s = .next t ∧
      t = { s with
        frameCount := s.frameCount + 1, role := .dec, hs := t.hs, ls := t.ls, dout := t.dout
        vctx := t.vctx, draws := t.draws, result := .success, busy := false
        resp := ⟨r.key, r.hevc, r.fn, r.w, r.h, r.min, r.max, r.hub, r.hcb, r.lcb, s.op.flen, s.resp.bool⟩ } ∧
      ∀ i, t.dout.get i =
        if i < n then
          dequant ((unrescale (unfilter (highSection f r) (lowSection f r)) r.min r.max).getD i 0)
        else s.dout.get i

/-- R46, R48, R105, R107, R109, R110, R127 (derived; which draw the codec's answer is, is log 9's choice): DECODE's errors in
their order, and exactly what each leaves changed. A plane that is not N bytes long is a failure, whichever the codec. -/
def Obligations.DecodeErrorsInOrder : Prop :=
  ∀ s : State,
    let f := s.fin.getSeq 0 s.op.flen.toNat
    (s.role = .enc → exec .decode s = .next { s with result := .illegalCommand, busy := false }) ∧
    (s.role ≠ .enc → s.params.frameCap < s.op.flen.toNat →
      exec .decode s = .next { s with result := .badOperand, busy := false }) ∧
    (s.role ≠ .enc → s.op.flen.toNat ≤ s.params.frameCap →
      (∀ e, parse f = .error e → exec .decode s = .next { s with role := .dec, result := e, busy := false }) ∧
      (∀ r, parse f = .header r →
        let n := r.w.toNat * r.h.toNat
        let job : DecodeJob := ⟨r.w.toNat, r.h.toNat, if r.hevc = 1 then .h265 else .h264, lowSection f r⟩
        let answer := Config.vcDecode s.draws s.vctx job
        (r.key = 0 → s.frameCount = 0 →
          exec .decode s = .next { s with role := .dec, result := .missingFrame, busy := false }) ∧
        ((r.key = 1 ∨ s.frameCount ≠ 0) →
          ((n % 2 = 1 ∨ r.hub.toNat ≠ n / 2 ∨ r.hcb = 0 ∨ r.lcb = 0) →
            exec .decode s = .next { s with role := .dec, result := .corrupted, busy := false }) ∧
          (n % 2 = 0 → r.hub.toNat = n / 2 → r.hcb ≠ 0 → r.lcb ≠ 0 →
            (ecDecompress s.params (highSection f r) r.hub.toNat = none →
              exec .decode s = .next { s with role := .dec, result := .corrupted, busy := false }) ∧
            (∀ hs, ecDecompress s.params (highSection f r) r.hub.toNat = some hs → hs.length = r.hub.toNat →
              (∀ plane, (if s.params.videoCoder = .ideal then some (lowSection f r) else answer.plane) = some plane →
                plane.length ≠ n) →
              ∃ t, exec .decode s = .next t ∧
                t = { s with
                  role := .dec, hs := t.hs, vctx := answer.ctx, draws := t.draws
                  result := .corrupted, busy := false })))))

/-- R97, with R98's and R105's rules that it repeats: how every command, every illegal word and block reset move ROLE and
FRAME_COUNT. -/
def Obligations.SequencerTransitions : Prop :=
  (∀ (i : Instr) (s t : State), exec i s = .next t →
    (i = .sreset → t.role = .none ∧ t.frameCount = 0) ∧
    ((i = .encode ∨ i = .encodeK) →
      (t.result = .success → s.role ≠ .dec ∧ t.role = .enc ∧ t.frameCount = s.frameCount + 1 ∧
        (s.frameCount = 0 → t.resp.key = 1)) ∧
      (t.result ≠ .success → t.role = s.role ∧ t.frameCount = s.frameCount) ∧
      (s.role = .dec ↔ t.result = .illegalCommand)) ∧
    (i = .decode →
      (t.result = .success → s.role ≠ .enc ∧ t.role = .dec ∧ t.frameCount = s.frameCount + 1 ∧
        (s.frameCount = 0 → t.resp.key = 1)) ∧
      (t.result ≠ .success → t.frameCount = s.frameCount) ∧
      ((t.result = .illegalCommand ∨ t.result = .badOperand) → t.role = s.role) ∧
      (t.result ≠ .success → t.result ≠ .illegalCommand → t.result ≠ .badOperand → t.role = .dec) ∧
      (s.role = .enc ↔ t.result = .illegalCommand)) ∧
    (isUnitCommand i = true → t.role = s.role ∧ t.frameCount = s.frameCount)) ∧
  (∀ s t : State, (∃ e, decode s.cmd = .error e) → runCommand s = .next t →
    t.role = s.role ∧ t.frameCount = s.frameCount) ∧
  (∀ s : State, (resetBlock s).role = .none ∧ (resetBlock s).frameCount = 0)

/-! Rules about every command. -/

/-- R121: which command can return which result. -/
def Obligations.ResultsByCommand : Prop :=
  (∀ (i : Instr) (s t : State), exec i s = .next t →
    (i = .sreset → t.result = .success) ∧
    (i ∈ [.quant, .dequant, .rescale, .unrescale, .unfilter, .filter, .fasm, .isdepth, .iskey] →
      t.result ∈ [.success, .badOperand]) ∧
    (i = .fparse → t.result ∈ [.success, .fileTruncated, .wrongFormat, .corrupted, .badOperand]) ∧
    (i ∈ [.encode, .encodeK] → t.result ∈ [.success, .illegalCommand, .badOperand] ∧
      (t.result = .illegalCommand → s.role = .dec)) ∧
    (i = .decode → t.result = .illegalCommand → s.role = .enc)) ∧
  (∀ s t : State, (∃ e, decode s.cmd = .error e) → runCommand s = .next t → t.result = .illegalCommand)

/-- R122: the partial effects an error can leave, and no others: ROLE from NONE by a DECODE past its operand check, VCTX when
the video decoder ran, HS and LS. -/
def Obligations.ErrorsLeaveOnlyPartialEffects : Prop :=
  ∀ (i : Instr) (s t : State), exec i s = .next t → t.result ≠ .success →
    t = { s with
      result := t.result, busy := false, role := t.role, vctx := t.vctx, hs := t.hs, ls := t.ls, draws := t.draws } ∧
    (t.role ≠ s.role → i = .decode ∧ s.role = .none ∧ t.role = .dec ∧ s.op.flen.toNat ≤ s.params.frameCap) ∧
    (t.vctx = s.vctx ∨ i = .decode ∧ ∃ r, parse (s.fin.getSeq 0 s.op.flen.toNat) = .header r ∧
      t.vctx = (vcDecode (decodeJob (s.fin.getSeq 0 s.op.flen.toNat) r) s).1.vctx)

/-- R18, R21 (derived): no command writes the operand registers, the host's input buffers DIN and FIN, the parameters, the
host's program or what it has read; and no command moves the command latch or records a fault by itself. -/
def Obligations.CommandsLeaveInputsAlone : Prop :=
  ∀ (i : Instr) (s t : State), exec i s = .next t →
    t.op = s.op ∧ t.din = s.din ∧ t.fin = s.fin ∧ t.params = s.params ∧ t.prog = s.prog ∧ t.seen = s.seen ∧
    t.cmd = s.cmd ∧ t.delay = s.delay ∧ t.faultRec = s.faultRec ∧ t.busy = false

/-- R147: a unit command neither writes nor reads the session's state, and a session command does not write CBUF, HBUF or
LBUF. -/
def Obligations.UnitAndSessionCommandsAreIndependent : Prop :=
  (∀ (i : Instr) (s t : State), isUnitCommand i = true → exec i s = .next t →
    t.frameCount = s.frameCount ∧ t.role = s.role ∧ t.vctx = s.vctx ∧ t.hs = s.hs ∧ t.ls = s.ls) ∧
  (∀ (i : Instr) (s t : State) (fc : BitVec 64) (ro : Role) (v : Vctx) (hs ls : Memory 8),
    isUnitCommand i = true → exec i s = .next t →
    exec i { s with frameCount := fc, role := ro, vctx := v, hs := hs, ls := ls }
      = .next { t with frameCount := fc, role := ro, vctx := v, hs := hs, ls := ls }) ∧
  (∀ (i : Instr) (s t : State), isUnitCommand i = false → exec i s = .next t →
    t.cbuf = s.cbuf ∧ t.hbuf = s.hbuf ∧ t.lbuf = s.lbuf)

/-- R43's EC-1 and EC-2 (derived: built in by log 8's construction), of both configurations of the port; EC-3 holds of any
function. -/
def Obligations.EntropyCoderLaws : Prop :=
  (∀ (p : Params) (b : List Byte) (n : Nat) (y : List Byte), ecDecompress p b n = some y → y.length = n) ∧
  (∀ (p : Params) (x : List Byte), ecCompress p x ≠ [] → ecDecompress p (ecCompress p x) x.length = some x)

/-! The derived laws of the sequencer. -/

/-- R112 S5 (derived): the frame ENCODE emits for an image of two samples fails every parse with Corrupted. -/
def Obligations.TwoSampleFramesNeverParse : Prop :=
  ∀ (i : Instr) (s t : State), (i = .encode ∨ i = .encodeK) → s.params.Legal →
    s.op.w.toNat * s.op.h.toNat = 2 → exec i s = .next t → t.result = .success →
    parse (t.fout.getSeq 0 t.resp.len.toNat) = .error .corrupted

/-- R112 S6 (derived): zero preservation through an ENCODE and a DECODE of its frame by a session with the same entropy
coder, whatever either video codec did: a depth that quantizes to 0 decodes to 0. -/
def Obligations.ZeroPreservation : Prop :=
  ∀ (i : Instr) (s t u v : State), (i = .encode ∨ i = .encodeK) → s.params.Legal →
    exec i s = .next t → t.result = .success →
    u.params.entropyCoder = s.params.entropyCoder → u.op.flen = t.resp.len →
    u.fin.getSeq 0 u.op.flen.toNat = t.fout.getSeq 0 t.resp.len.toNat →
    exec .decode u = .next v → v.result = .success →
    ∀ a, a < s.op.w.toNat * s.op.h.toNat → quant (s.din.get a) = 0 → v.dout.get a = 0

/-- R74, R83, R48 (derived): with the stub coders, an image of at least four samples is encoded, and a decoder session given
the frame decodes it to dequant(quant(depth)) at every pixel: the codec loses nothing but the quantizer's steps. -/
def Obligations.StubCodersRoundTrip : Prop :=
  ∀ (i : Instr) (k : Bool) (s : State), (i = .encode ∧ k = false ∨ i = .encodeK ∧ k = true) →
    s.params.entropyCoder = .identity → s.params.videoCoder = .ideal → s.params.Legal →
    s.role ≠ .dec → 1 ≤ s.op.w.toNat → s.op.w.toNat ≤ 4096 → 1 ≤ s.op.h.toNat → s.op.h.toNat ≤ 4096 →
    let n := s.op.w.toNat * s.op.h.toNat
    n % 2 = 0 → 4 ≤ n → 26 + n / 2 + n ≤ s.params.frameCap →
    ∃ t, exec i s = .next t ∧ t.result = .success ∧
      ∀ u : State, u.params = s.params → u.role ≠ .enc → (k = true ∨ s.frameCount = 0 ∨ u.frameCount ≠ 0) →
        u.op.flen = t.resp.len → u.fin.getSeq 0 u.op.flen.toNat = t.fout.getSeq 0 t.resp.len.toNat →
        ∃ v, exec .decode u = .next v ∧ v.result = .success ∧
          ∀ a, a < n → v.dout.get a = dequant (quant (s.din.get a))

/-! The host's side. -/

/-- R18 (derived; that RESULT and ROLE are named values is log 13's choice): each register number reads as the state R18's
table gives it, zero-extended; a write to an RW register keeps the low bits of the value and no other register's reading
changes; a write to an RO or reserved register changes nothing; reserved registers and CMD read 0. -/
def Obligations.RegisterMap : Prop :=
  (∀ s : State,
    readNumber 0x00 s = s.op.n ∧ readNumber 0x01 s = s.op.w.setWidth 32 ∧ readNumber 0x02 s = s.op.h.setWidth 32 ∧
    readNumber 0x03 s = s.op.type.setWidth 32 ∧ readNumber 0x04 s = s.op.min.setWidth 32 ∧
    readNumber 0x05 s = s.op.max.setWidth 32 ∧ readNumber 0x06 s = s.op.flen ∧
    readNumber 0x07 s = s.op.fn.setWidth 32 ∧ readNumber 0x08 s = s.op.flags.setWidth 32 ∧
    readNumber 0x09 s = s.op.hub ∧ readNumber 0x0A s = s.op.hcb ∧ readNumber 0x0B s = s.op.lcb ∧
    readNumber 0x0C s = s.op.vp0 ∧ readNumber 0x0D s = s.op.vp1 ∧ readNumber 0x0E s = s.op.vp2 ∧
    readNumber 0x0F s = s.op.vp3 ∧ readNumber 0x10 s = s.result.code.setWidth 32 ∧
    readNumber 0x11 s = s.resp.key.setWidth 32 ∧ readNumber 0x12 s = s.resp.hevc.setWidth 32 ∧
    readNumber 0x13 s = s.resp.fn.setWidth 32 ∧ readNumber 0x14 s = s.resp.w.setWidth 32 ∧
    readNumber 0x15 s = s.resp.h.setWidth 32 ∧ readNumber 0x16 s = s.resp.min.setWidth 32 ∧
    readNumber 0x17 s = s.resp.max.setWidth 32 ∧ readNumber 0x18 s = s.resp.hub ∧ readNumber 0x19 s = s.resp.hcb ∧
    readNumber 0x1A s = s.resp.lcb ∧ readNumber 0x1B s = s.resp.len ∧ readNumber 0x1C s = s.resp.bool.setWidth 32 ∧
    readNumber 0x20 s = s.frameCount.setWidth 32 ∧ readNumber 0x21 s = (s.frameCount >>> 32).setWidth 32 ∧
    readNumber 0x22 s = s.role.code.setWidth 32 ∧ readNumber 0x23 s = (BitVec.ofBool s.busy).setWidth 32 ∧
    readNumber 0x30 s = 0) ∧
  (∀ (num : BitVec 6) (r : Reg) (v : Word) (s : State), regOfNumber num = some r → regWritable r = true →
    (readNumber num (writeNumber num v s)).toNat = v.toNat % 2 ^ regBits r ∧
    (∀ other, other ≠ num → readNumber other (writeNumber num v s) = readNumber other s) ∧
    writeNumber num v s = { s with op := (writeNumber num v s).op }) ∧
  (∀ (num : BitVec 6) (r : Reg) (v : Word) (s : State), regOfNumber num = some r → regWritable r = false → r ≠ .cmd →
    writeNumber num v s = s) ∧
  (∀ (num : BitVec 6) (v : Word) (s : State), regOfNumber num = none →
    writeNumber num v s = s ∧ readNumber num s = 0) ∧
  (∀ r : Reg, regOfNumber (regNumber r) = some r)

/-- R16 (derived): FC_LO and FC_HI are the halves of FRAME_COUNT. -/
def Obligations.FrameCountReadsAsTwoHalves : Prop :=
  ∀ s : State, readNumber 0x21 s ++ readNumber 0x20 s = s.frameCount

/-- R19, R36 (derived): a host write to CMD while BUSY = 0 latches the low 8 bits and sets BUSY, and changes no other part
of the block. -/
def Obligations.CmdWriteIssuesACommand : Prop :=
  ∀ (s : State) (v : Word) (rest : List HostStmt), s.faultRec = none → s.busy = false → s.prog = .wr 0x30 v :: rest →
    ∃ t, step s = .next t ∧
      t = { s with cmd := v.setWidth 8, busy := true, prog := rest, delay := t.delay, draws := t.draws }

/-- R123, R138 (derived; that the host moves while BUSY = 1 is log 2's choice, `delay`, and that a buffer write outside
R152's table is the fault then too is log 14's): a host write of CMD, of any
register or of any buffer element, and a block reset, while BUSY = 1, is the model fault HostProtocol. -/
def Obligations.HostProtocolFault : Prop :=
  ∀ (s : State) (rest : List HostStmt), s.faultRec = none → s.busy = true → s.delay ≠ 0 →
    (∀ num v, s.prog = .wr num v :: rest → step s = .fault .hostProtocol) ∧
    (∀ sp a v vs, s.prog = .st sp a (v :: vs) :: rest → step s = .fault .hostProtocol) ∧
    (s.prog = .blockReset :: rest → step s = .fault .hostProtocol)

/-- R152 (derived): a host buffer write while BUSY = 0, within the table, stores the element and changes no other element of
any space and nothing else of the block. -/
def Obligations.HostStoresOneElement : Prop :=
  ∀ (s : State) (sp : Space) (a : Nat) (v : Word) (vs : List Word) (rest : List HostStmt),
    s.faultRec = none → s.busy = false → s.prog = .st sp a (v :: vs) :: rest →
    hostVisible sp = true → a < capacityOf s.params.frameCap sp → v.toNat < 2 ^ elementWidth sp →
    ∃ t, step s = .next t ∧
      t = { s with
        prog := .st sp (a + 1) vs :: rest
        din := t.din, dout := t.dout, cbuf := t.cbuf, hbuf := t.hbuf, lbuf := t.lbuf, fin := t.fin, fout := t.fout } ∧
      readElement sp a t = v ∧
      ∀ sp' a', (sp', a') ≠ (sp, a) → readElement sp' a' t = readElement sp' a' s

/-- R34, R36, R144, R152 (derived; that the host moves while BUSY = 1 is log 2's choice, and the draw log 16's): a host read
has no side effect. While BUSY = 0 it returns the register or the element and changes nothing of the block. While BUSY = 1
BUSY reads 1, every other register number reads as a draw, an element reads as a draw of its width, and nothing of the block
changes. -/
def Obligations.HostReadsHaveNoSideEffects : Prop :=
  ∀ (s : State) (rest : List HostStmt), s.faultRec = none →
    (∀ num, s.busy = false → s.prog = .rd num :: rest →
      step s = .next { s with prog := rest, seen := s.seen ++ [readNumber num s] }) ∧
    (∀ sp a b, s.busy = false → s.prog = .ld sp a b :: rest → a < b →
      hostVisible sp = true → a < capacityOf s.params.frameCap sp →
      step s = .next { s with prog := .ld sp (a + 1) b :: rest, seen := s.seen ++ [readElement sp a s] }) ∧
    (s.busy = true → s.delay ≠ 0 → s.prog = .rd 0x23 :: rest →
      step s = .next { s with prog := rest, delay := s.delay - 1, seen := s.seen ++ [1] }) ∧
    (∀ num, num ≠ 0x23 → s.busy = true → s.delay ≠ 0 → s.prog = .rd num :: rest →
      step s = .next { s with
        prog := rest, delay := s.delay - 1, draws := s.draws + 1, seen := s.seen ++ [Config.busyRead s.draws] }) ∧
    (∀ sp a b, s.busy = true → s.delay ≠ 0 → s.prog = .ld sp a b :: rest → a < b →
      hostVisible sp = true → a < capacityOf s.params.frameCap sp →
      ∃ v : Word, v.toNat = (Config.busyRead s.draws).toNat % 2 ^ elementWidth sp ∧
        step s = .next { s with
          prog := .ld sp (a + 1) b :: rest, delay := s.delay - 1, draws := s.draws + 1, seen := s.seen ++ [v] })

/-- R152 (derived; the refusal is log 14's choice): a host access to HS or LS, beyond the capacity, or of a value wider than
the element has no step. -/
def Obligations.HostAccessOutsideTheTable : Prop :=
  ∀ (s : State) (sp : Space) (a : Nat) (rest : List HostStmt), s.faultRec = none → s.busy = false →
    (∀ v vs, s.prog = .st sp a (v :: vs) :: rest →
      (hostVisible sp = false ∨ capacityOf s.params.frameCap sp ≤ a ∨ 2 ^ elementWidth sp ≤ v.toNat) →
      step s = .refused .hostAccess) ∧
    (∀ b, s.prog = .ld sp a b :: rest → a < b →
      (hostVisible sp = false ∨ capacityOf s.params.frameCap sp ≤ a) → step s = .refused .hostAccess)

/-- R136, R153 (derived; the stuttering step is log 4's choice): with BUSY = 0 and no host statement left, the block keeps
every value. -/
def Obligations.IdleBlockKeepsItsState : Prop :=
  ∀ s : State, s.faultRec = none → s.busy = false → s.prog = [] → step s = .next s

/-- R137, R144 (derived; `delay` is log 2's choice; that the core's move ends at all is R137's assumption that every coder call
returns, log 19): a host that waits reads BUSY, and after the finitely many moves that fit into the BUSY time the core's move
runs the command, from a block that has not changed. What the command then answers, FrameOverflow included, is for the
statements about it. -/
def Obligations.WaitingReachesTheCoreMove : Prop :=
  ∀ (s : State) (rest : List HostStmt), s.faultRec = none → s.busy = true → s.prog = .wait :: rest →
    runFor s.delay s = { s with delay := 0 } ∧
    step { s with delay := 0 } = runCommand { s with delay := 0 }

/-- R125 (derived; the record is the model's, log 5): no later command clears a model fault: a run with one recorded stays
where it is. -/
def Obligations.ModelFaultIsSticky : Prop :=
  ∀ (n : Nat) (r : Fault) (s : State), s.faultRec = some r → step s = .fault r ∧ runFor n s = s

/-- R138, R140 (derived; what stays is log 22's choice): block reset while BUSY = 0 puts every register, the session and the coder context in the reset
state and makes every buffer element a draw. -/
def Obligations.BlockResetRestoresTheResetState : Prop :=
  ∀ (s : State) (rest : List HostStmt), s.faultRec = none → s.busy = false → s.prog = .blockReset :: rest →
    ∃ t, step s = .next t ∧
      t = { State.reset with
        din := t.din, dout := t.dout, cbuf := t.cbuf, hbuf := t.hbuf, lbuf := t.lbuf, fin := t.fin, fout := t.fout
        hs := t.hs, ls := t.ls, params := s.params, draws := t.draws, prog := rest, seen := s.seen } ∧
      t.din.cells = [] ∧ t.dout.cells = [] ∧ t.cbuf.cells = [] ∧ t.hbuf.cells = [] ∧ t.lbuf.cells = [] ∧
      t.fin.cells = [] ∧ t.fout.cells = [] ∧ t.hs.cells = [] ∧ t.ls.cells = []

/-! VC-KEY as a premise. -/

/-- R47, R112 S4, R149 (derived; the premise `VcKey` is R47's property, not built in; which jobs it speaks of is the claim's to give,
log 26's choice): with a codec that has VC-KEY, a session
that decodes a keyframe with Success then decodes a non-keyframe that passes the sequencer's checks and the entropy decoder,
and the codec is again in a state that accepts non-keyframes. -/
def Obligations.NonKeyframeDecodesAfterAKeyframe : Prop :=
  ∀ (ready : Vctx → Prop) (keyBits interBits : DecodeJob → Prop) (interJobs : EncodeJob → Prop) (s t u : State)
    (r q : Header) (hs : List Byte),
    VcKey s.params ready keyBits interBits interJobs →
    exec .decode s = .next t → t.result = .success →
    let f := s.fin.getSeq 0 s.op.flen.toNat
    parse f = .header r →
    keyBits ⟨r.w.toNat, r.h.toNat, if r.hevc = 1 then .h265 else .h264, lowSection f r⟩ →
    u.params = s.params → u.vctx = t.vctx → u.role ≠ .enc → u.frameCount ≠ 0 →
    let g := u.fin.getSeq 0 u.op.flen.toNat
    let n := q.w.toNat * q.h.toNat
    u.op.flen.toNat ≤ u.params.frameCap → parse g = .header q →
    n % 2 = 0 → q.hub.toNat = n / 2 → q.hcb ≠ 0 → q.lcb ≠ 0 →
    ecDecompress u.params (highSection g q) q.hub.toNat = some hs →
    interBits ⟨q.w.toNat, q.h.toNat, if q.hevc = 1 then .h265 else .h264, lowSection g q⟩ →
    ∃ v, exec .decode u = .next v ∧ v.result = .success ∧ v.role = .dec ∧ v.frameCount = u.frameCount + 1 ∧
      ready v.vctx
end

