-- ==== Sys2Proof/Laws/State.lean ====
section
/-! SUPPORT. One lemma per field per shared update of State, each true by unfolding, so that no later proof unfolds a record
update. -/

namespace Sys2Proof.Machine

@[simp] theorem endCommand_op (r : Result) (s : State) : (endCommand r s).op = s.op := rfl
@[simp] theorem endCommand_result (r : Result) (s : State) : (endCommand r s).result = r := rfl
@[simp] theorem endCommand_resp (r : Result) (s : State) : (endCommand r s).resp = s.resp := rfl
@[simp] theorem endCommand_frameCount (r : Result) (s : State) : (endCommand r s).frameCount = s.frameCount := rfl
@[simp] theorem endCommand_role (r : Result) (s : State) : (endCommand r s).role = s.role := rfl
@[simp] theorem endCommand_busy (r : Result) (s : State) : (endCommand r s).busy = false := rfl
@[simp] theorem endCommand_cmd (r : Result) (s : State) : (endCommand r s).cmd = s.cmd := rfl
@[simp] theorem endCommand_vctx (r : Result) (s : State) : (endCommand r s).vctx = s.vctx := rfl
@[simp] theorem endCommand_encJob (r : Result) (s : State) : (endCommand r s).encJob = s.encJob := rfl
@[simp] theorem endCommand_din (r : Result) (s : State) : (endCommand r s).din = s.din := rfl
@[simp] theorem endCommand_dout (r : Result) (s : State) : (endCommand r s).dout = s.dout := rfl
@[simp] theorem endCommand_cbuf (r : Result) (s : State) : (endCommand r s).cbuf = s.cbuf := rfl
@[simp] theorem endCommand_hbuf (r : Result) (s : State) : (endCommand r s).hbuf = s.hbuf := rfl
@[simp] theorem endCommand_lbuf (r : Result) (s : State) : (endCommand r s).lbuf = s.lbuf := rfl
@[simp] theorem endCommand_fin (r : Result) (s : State) : (endCommand r s).fin = s.fin := rfl
@[simp] theorem endCommand_fout (r : Result) (s : State) : (endCommand r s).fout = s.fout := rfl
@[simp] theorem endCommand_hs (r : Result) (s : State) : (endCommand r s).hs = s.hs := rfl
@[simp] theorem endCommand_ls (r : Result) (s : State) : (endCommand r s).ls = s.ls := rfl
@[simp] theorem endCommand_faultRec (r : Result) (s : State) : (endCommand r s).faultRec = s.faultRec := rfl
@[simp] theorem endCommand_params (r : Result) (s : State) : (endCommand r s).params = s.params := rfl
@[simp] theorem endCommand_draws (r : Result) (s : State) : (endCommand r s).draws = s.draws := rfl
@[simp] theorem endCommand_delay (r : Result) (s : State) : (endCommand r s).delay = s.delay := rfl
@[simp] theorem endCommand_prog (r : Result) (s : State) : (endCommand r s).prog = s.prog := rfl
@[simp] theorem endCommand_seen (r : Result) (s : State) : (endCommand r s).seen = s.seen := rfl

@[simp] theorem answerBool_op (b : Bool) (s : State) : (answerBool b s).op = s.op := rfl
@[simp] theorem answerBool_result (b : Bool) (s : State) : (answerBool b s).result = s.result := rfl
@[simp] theorem answerBool_resp (b : Bool) (s : State) : (answerBool b s).resp = { s.resp with bool := BitVec.ofBool b } := rfl
@[simp] theorem answerBool_frameCount (b : Bool) (s : State) : (answerBool b s).frameCount = s.frameCount := rfl
@[simp] theorem answerBool_role (b : Bool) (s : State) : (answerBool b s).role = s.role := rfl
@[simp] theorem answerBool_busy (b : Bool) (s : State) : (answerBool b s).busy = s.busy := rfl
@[simp] theorem answerBool_cmd (b : Bool) (s : State) : (answerBool b s).cmd = s.cmd := rfl
@[simp] theorem answerBool_vctx (b : Bool) (s : State) : (answerBool b s).vctx = s.vctx := rfl
@[simp] theorem answerBool_encJob (b : Bool) (s : State) : (answerBool b s).encJob = s.encJob := rfl
@[simp] theorem answerBool_din (b : Bool) (s : State) : (answerBool b s).din = s.din := rfl
@[simp] theorem answerBool_dout (b : Bool) (s : State) : (answerBool b s).dout = s.dout := rfl
@[simp] theorem answerBool_cbuf (b : Bool) (s : State) : (answerBool b s).cbuf = s.cbuf := rfl
@[simp] theorem answerBool_hbuf (b : Bool) (s : State) : (answerBool b s).hbuf = s.hbuf := rfl
@[simp] theorem answerBool_lbuf (b : Bool) (s : State) : (answerBool b s).lbuf = s.lbuf := rfl
@[simp] theorem answerBool_fin (b : Bool) (s : State) : (answerBool b s).fin = s.fin := rfl
@[simp] theorem answerBool_fout (b : Bool) (s : State) : (answerBool b s).fout = s.fout := rfl
@[simp] theorem answerBool_hs (b : Bool) (s : State) : (answerBool b s).hs = s.hs := rfl
@[simp] theorem answerBool_ls (b : Bool) (s : State) : (answerBool b s).ls = s.ls := rfl
@[simp] theorem answerBool_faultRec (b : Bool) (s : State) : (answerBool b s).faultRec = s.faultRec := rfl
@[simp] theorem answerBool_params (b : Bool) (s : State) : (answerBool b s).params = s.params := rfl
@[simp] theorem answerBool_draws (b : Bool) (s : State) : (answerBool b s).draws = s.draws := rfl
@[simp] theorem answerBool_delay (b : Bool) (s : State) : (answerBool b s).delay = s.delay := rfl
@[simp] theorem answerBool_prog (b : Bool) (s : State) : (answerBool b s).prog = s.prog := rfl
@[simp] theorem answerBool_seen (b : Bool) (s : State) : (answerBool b s).seen = s.seen := rfl

@[simp] theorem vcEncodeBegin_op (job : EncodeJob) (s : State) : (vcEncodeBegin job s).op = s.op := rfl
@[simp] theorem vcEncodeBegin_result (job : EncodeJob) (s : State) : (vcEncodeBegin job s).result = s.result := rfl
@[simp] theorem vcEncodeBegin_resp (job : EncodeJob) (s : State) : (vcEncodeBegin job s).resp = s.resp := rfl
@[simp] theorem vcEncodeBegin_frameCount (job : EncodeJob) (s : State) : (vcEncodeBegin job s).frameCount = s.frameCount := rfl
@[simp] theorem vcEncodeBegin_role (job : EncodeJob) (s : State) : (vcEncodeBegin job s).role = s.role := rfl
@[simp] theorem vcEncodeBegin_busy (job : EncodeJob) (s : State) : (vcEncodeBegin job s).busy = s.busy := rfl
@[simp] theorem vcEncodeBegin_cmd (job : EncodeJob) (s : State) : (vcEncodeBegin job s).cmd = s.cmd := rfl
@[simp] theorem vcEncodeBegin_vctx (job : EncodeJob) (s : State) : (vcEncodeBegin job s).vctx = s.vctx := rfl
@[simp] theorem vcEncodeBegin_encJob (job : EncodeJob) (s : State) : (vcEncodeBegin job s).encJob = some job := rfl
@[simp] theorem vcEncodeBegin_din (job : EncodeJob) (s : State) : (vcEncodeBegin job s).din = s.din := rfl
@[simp] theorem vcEncodeBegin_dout (job : EncodeJob) (s : State) : (vcEncodeBegin job s).dout = s.dout := rfl
@[simp] theorem vcEncodeBegin_cbuf (job : EncodeJob) (s : State) : (vcEncodeBegin job s).cbuf = s.cbuf := rfl
@[simp] theorem vcEncodeBegin_hbuf (job : EncodeJob) (s : State) : (vcEncodeBegin job s).hbuf = s.hbuf := rfl
@[simp] theorem vcEncodeBegin_lbuf (job : EncodeJob) (s : State) : (vcEncodeBegin job s).lbuf = s.lbuf := rfl
@[simp] theorem vcEncodeBegin_fin (job : EncodeJob) (s : State) : (vcEncodeBegin job s).fin = s.fin := rfl
@[simp] theorem vcEncodeBegin_fout (job : EncodeJob) (s : State) : (vcEncodeBegin job s).fout = s.fout := rfl
@[simp] theorem vcEncodeBegin_hs (job : EncodeJob) (s : State) : (vcEncodeBegin job s).hs = s.hs := rfl
@[simp] theorem vcEncodeBegin_ls (job : EncodeJob) (s : State) : (vcEncodeBegin job s).ls = s.ls := rfl
@[simp] theorem vcEncodeBegin_faultRec (job : EncodeJob) (s : State) : (vcEncodeBegin job s).faultRec = s.faultRec := rfl
@[simp] theorem vcEncodeBegin_params (job : EncodeJob) (s : State) : (vcEncodeBegin job s).params = s.params := rfl
@[simp] theorem vcEncodeBegin_draws (job : EncodeJob) (s : State) : (vcEncodeBegin job s).draws = s.draws := rfl
@[simp] theorem vcEncodeBegin_delay (job : EncodeJob) (s : State) : (vcEncodeBegin job s).delay = s.delay := rfl
@[simp] theorem vcEncodeBegin_prog (job : EncodeJob) (s : State) : (vcEncodeBegin job s).prog = s.prog := rfl
@[simp] theorem vcEncodeBegin_seen (job : EncodeJob) (s : State) : (vcEncodeBegin job s).seen = s.seen := rfl

@[simp] theorem issueCommand_op (w : Byte) (s : State) : (issueCommand w s).op = s.op := rfl
@[simp] theorem issueCommand_result (w : Byte) (s : State) : (issueCommand w s).result = s.result := rfl
@[simp] theorem issueCommand_resp (w : Byte) (s : State) : (issueCommand w s).resp = s.resp := rfl
@[simp] theorem issueCommand_frameCount (w : Byte) (s : State) : (issueCommand w s).frameCount = s.frameCount := rfl
@[simp] theorem issueCommand_role (w : Byte) (s : State) : (issueCommand w s).role = s.role := rfl
@[simp] theorem issueCommand_busy (w : Byte) (s : State) : (issueCommand w s).busy = true := rfl
@[simp] theorem issueCommand_cmd (w : Byte) (s : State) : (issueCommand w s).cmd = w := rfl
@[simp] theorem issueCommand_vctx (w : Byte) (s : State) : (issueCommand w s).vctx = s.vctx := rfl
@[simp] theorem issueCommand_encJob (w : Byte) (s : State) : (issueCommand w s).encJob = s.encJob := rfl
@[simp] theorem issueCommand_din (w : Byte) (s : State) : (issueCommand w s).din = s.din := rfl
@[simp] theorem issueCommand_dout (w : Byte) (s : State) : (issueCommand w s).dout = s.dout := rfl
@[simp] theorem issueCommand_cbuf (w : Byte) (s : State) : (issueCommand w s).cbuf = s.cbuf := rfl
@[simp] theorem issueCommand_hbuf (w : Byte) (s : State) : (issueCommand w s).hbuf = s.hbuf := rfl
@[simp] theorem issueCommand_lbuf (w : Byte) (s : State) : (issueCommand w s).lbuf = s.lbuf := rfl
@[simp] theorem issueCommand_fin (w : Byte) (s : State) : (issueCommand w s).fin = s.fin := rfl
@[simp] theorem issueCommand_fout (w : Byte) (s : State) : (issueCommand w s).fout = s.fout := rfl
@[simp] theorem issueCommand_hs (w : Byte) (s : State) : (issueCommand w s).hs = s.hs := rfl
@[simp] theorem issueCommand_ls (w : Byte) (s : State) : (issueCommand w s).ls = s.ls := rfl
@[simp] theorem issueCommand_faultRec (w : Byte) (s : State) : (issueCommand w s).faultRec = s.faultRec := rfl
@[simp] theorem issueCommand_params (w : Byte) (s : State) : (issueCommand w s).params = s.params := rfl
@[simp] theorem issueCommand_draws (w : Byte) (s : State) : (issueCommand w s).draws = s.draws + 1 := rfl
@[simp] theorem issueCommand_delay (w : Byte) (s : State) : (issueCommand w s).delay = Config.busyMoves s.draws := rfl
@[simp] theorem issueCommand_prog (w : Byte) (s : State) : (issueCommand w s).prog = s.prog := rfl
@[simp] theorem issueCommand_seen (w : Byte) (s : State) : (issueCommand w s).seen = s.seen := rfl

@[simp] theorem observe_op (v : Word) (s : State) : (observe v s).op = s.op := rfl
@[simp] theorem observe_result (v : Word) (s : State) : (observe v s).result = s.result := rfl
@[simp] theorem observe_resp (v : Word) (s : State) : (observe v s).resp = s.resp := rfl
@[simp] theorem observe_frameCount (v : Word) (s : State) : (observe v s).frameCount = s.frameCount := rfl
@[simp] theorem observe_role (v : Word) (s : State) : (observe v s).role = s.role := rfl
@[simp] theorem observe_busy (v : Word) (s : State) : (observe v s).busy = s.busy := rfl
@[simp] theorem observe_cmd (v : Word) (s : State) : (observe v s).cmd = s.cmd := rfl
@[simp] theorem observe_vctx (v : Word) (s : State) : (observe v s).vctx = s.vctx := rfl
@[simp] theorem observe_encJob (v : Word) (s : State) : (observe v s).encJob = s.encJob := rfl
@[simp] theorem observe_din (v : Word) (s : State) : (observe v s).din = s.din := rfl
@[simp] theorem observe_dout (v : Word) (s : State) : (observe v s).dout = s.dout := rfl
@[simp] theorem observe_cbuf (v : Word) (s : State) : (observe v s).cbuf = s.cbuf := rfl
@[simp] theorem observe_hbuf (v : Word) (s : State) : (observe v s).hbuf = s.hbuf := rfl
@[simp] theorem observe_lbuf (v : Word) (s : State) : (observe v s).lbuf = s.lbuf := rfl
@[simp] theorem observe_fin (v : Word) (s : State) : (observe v s).fin = s.fin := rfl
@[simp] theorem observe_fout (v : Word) (s : State) : (observe v s).fout = s.fout := rfl
@[simp] theorem observe_hs (v : Word) (s : State) : (observe v s).hs = s.hs := rfl
@[simp] theorem observe_ls (v : Word) (s : State) : (observe v s).ls = s.ls := rfl
@[simp] theorem observe_faultRec (v : Word) (s : State) : (observe v s).faultRec = s.faultRec := rfl
@[simp] theorem observe_params (v : Word) (s : State) : (observe v s).params = s.params := rfl
@[simp] theorem observe_draws (v : Word) (s : State) : (observe v s).draws = s.draws := rfl
@[simp] theorem observe_delay (v : Word) (s : State) : (observe v s).delay = s.delay := rfl
@[simp] theorem observe_prog (v : Word) (s : State) : (observe v s).prog = s.prog := rfl
@[simp] theorem observe_seen (v : Word) (s : State) : (observe v s).seen = s.seen ++ [v] := rfl

@[simp] theorem publish_op (hdr : Header) (len : Nat) (s : State) : (publish hdr len s).op = s.op := rfl
@[simp] theorem publish_result (hdr : Header) (len : Nat) (s : State) : (publish hdr len s).result = s.result := rfl
@[simp] theorem publish_frameCount (hdr : Header) (len : Nat) (s : State) : (publish hdr len s).frameCount = s.frameCount := rfl
@[simp] theorem publish_role (hdr : Header) (len : Nat) (s : State) : (publish hdr len s).role = s.role := rfl
@[simp] theorem publish_busy (hdr : Header) (len : Nat) (s : State) : (publish hdr len s).busy = s.busy := rfl
@[simp] theorem publish_cmd (hdr : Header) (len : Nat) (s : State) : (publish hdr len s).cmd = s.cmd := rfl
@[simp] theorem publish_vctx (hdr : Header) (len : Nat) (s : State) : (publish hdr len s).vctx = s.vctx := rfl
@[simp] theorem publish_encJob (hdr : Header) (len : Nat) (s : State) : (publish hdr len s).encJob = s.encJob := rfl
@[simp] theorem publish_din (hdr : Header) (len : Nat) (s : State) : (publish hdr len s).din = s.din := rfl
@[simp] theorem publish_dout (hdr : Header) (len : Nat) (s : State) : (publish hdr len s).dout = s.dout := rfl
@[simp] theorem publish_cbuf (hdr : Header) (len : Nat) (s : State) : (publish hdr len s).cbuf = s.cbuf := rfl
@[simp] theorem publish_hbuf (hdr : Header) (len : Nat) (s : State) : (publish hdr len s).hbuf = s.hbuf := rfl
@[simp] theorem publish_lbuf (hdr : Header) (len : Nat) (s : State) : (publish hdr len s).lbuf = s.lbuf := rfl
@[simp] theorem publish_fin (hdr : Header) (len : Nat) (s : State) : (publish hdr len s).fin = s.fin := rfl
@[simp] theorem publish_fout (hdr : Header) (len : Nat) (s : State) : (publish hdr len s).fout = s.fout := rfl
@[simp] theorem publish_hs (hdr : Header) (len : Nat) (s : State) : (publish hdr len s).hs = s.hs := rfl
@[simp] theorem publish_ls (hdr : Header) (len : Nat) (s : State) : (publish hdr len s).ls = s.ls := rfl
@[simp] theorem publish_faultRec (hdr : Header) (len : Nat) (s : State) : (publish hdr len s).faultRec = s.faultRec := rfl
@[simp] theorem publish_params (hdr : Header) (len : Nat) (s : State) : (publish hdr len s).params = s.params := rfl
@[simp] theorem publish_draws (hdr : Header) (len : Nat) (s : State) : (publish hdr len s).draws = s.draws := rfl
@[simp] theorem publish_delay (hdr : Header) (len : Nat) (s : State) : (publish hdr len s).delay = s.delay := rfl
@[simp] theorem publish_prog (hdr : Header) (len : Nat) (s : State) : (publish hdr len s).prog = s.prog := rfl
@[simp] theorem publish_seen (hdr : Header) (len : Nat) (s : State) : (publish hdr len s).seen = s.seen := rfl

@[simp] theorem publish_resp_key (hdr : Header) (len : Nat) (s : State) : (publish hdr len s).resp.key = hdr.key := rfl
@[simp] theorem publish_resp_hevc (hdr : Header) (len : Nat) (s : State) : (publish hdr len s).resp.hevc = hdr.hevc := rfl
@[simp] theorem publish_resp_fn (hdr : Header) (len : Nat) (s : State) : (publish hdr len s).resp.fn = hdr.fn := rfl
@[simp] theorem publish_resp_w (hdr : Header) (len : Nat) (s : State) : (publish hdr len s).resp.w = hdr.w := rfl
@[simp] theorem publish_resp_h (hdr : Header) (len : Nat) (s : State) : (publish hdr len s).resp.h = hdr.h := rfl
@[simp] theorem publish_resp_min (hdr : Header) (len : Nat) (s : State) : (publish hdr len s).resp.min = hdr.min := rfl
@[simp] theorem publish_resp_max (hdr : Header) (len : Nat) (s : State) : (publish hdr len s).resp.max = hdr.max := rfl
@[simp] theorem publish_resp_hub (hdr : Header) (len : Nat) (s : State) : (publish hdr len s).resp.hub = hdr.hub := rfl
@[simp] theorem publish_resp_hcb (hdr : Header) (len : Nat) (s : State) : (publish hdr len s).resp.hcb = hdr.hcb := rfl
@[simp] theorem publish_resp_lcb (hdr : Header) (len : Nat) (s : State) : (publish hdr len s).resp.lcb = hdr.lcb := rfl
@[simp] theorem publish_resp_len (hdr : Header) (len : Nat) (s : State) : (publish hdr len s).resp.len = BitVec.ofNat 32 len := rfl
@[simp] theorem publish_resp_bool (hdr : Header) (len : Nat) (s : State) : (publish hdr len s).resp.bool = s.resp.bool := rfl

@[simp] theorem claimRole_op (r : Role) (s : State) : (claimRole r s).op = s.op := by unfold claimRole; split <;> rfl
@[simp] theorem claimRole_result (r : Role) (s : State) : (claimRole r s).result = s.result := by unfold claimRole; split <;> rfl
@[simp] theorem claimRole_resp (r : Role) (s : State) : (claimRole r s).resp = s.resp := by unfold claimRole; split <;> rfl
@[simp] theorem claimRole_frameCount (r : Role) (s : State) : (claimRole r s).frameCount = s.frameCount := by unfold claimRole; split <;> rfl
@[simp] theorem claimRole_busy (r : Role) (s : State) : (claimRole r s).busy = s.busy := by unfold claimRole; split <;> rfl
@[simp] theorem claimRole_cmd (r : Role) (s : State) : (claimRole r s).cmd = s.cmd := by unfold claimRole; split <;> rfl
@[simp] theorem claimRole_vctx (r : Role) (s : State) : (claimRole r s).vctx = s.vctx := by unfold claimRole; split <;> rfl
@[simp] theorem claimRole_encJob (r : Role) (s : State) : (claimRole r s).encJob = s.encJob := by unfold claimRole; split <;> rfl
@[simp] theorem claimRole_din (r : Role) (s : State) : (claimRole r s).din = s.din := by unfold claimRole; split <;> rfl
@[simp] theorem claimRole_dout (r : Role) (s : State) : (claimRole r s).dout = s.dout := by unfold claimRole; split <;> rfl
@[simp] theorem claimRole_cbuf (r : Role) (s : State) : (claimRole r s).cbuf = s.cbuf := by unfold claimRole; split <;> rfl
@[simp] theorem claimRole_hbuf (r : Role) (s : State) : (claimRole r s).hbuf = s.hbuf := by unfold claimRole; split <;> rfl
@[simp] theorem claimRole_lbuf (r : Role) (s : State) : (claimRole r s).lbuf = s.lbuf := by unfold claimRole; split <;> rfl
@[simp] theorem claimRole_fin (r : Role) (s : State) : (claimRole r s).fin = s.fin := by unfold claimRole; split <;> rfl
@[simp] theorem claimRole_fout (r : Role) (s : State) : (claimRole r s).fout = s.fout := by unfold claimRole; split <;> rfl
@[simp] theorem claimRole_hs (r : Role) (s : State) : (claimRole r s).hs = s.hs := by unfold claimRole; split <;> rfl
@[simp] theorem claimRole_ls (r : Role) (s : State) : (claimRole r s).ls = s.ls := by unfold claimRole; split <;> rfl
@[simp] theorem claimRole_faultRec (r : Role) (s : State) : (claimRole r s).faultRec = s.faultRec := by unfold claimRole; split <;> rfl
@[simp] theorem claimRole_params (r : Role) (s : State) : (claimRole r s).params = s.params := by unfold claimRole; split <;> rfl
@[simp] theorem claimRole_draws (r : Role) (s : State) : (claimRole r s).draws = s.draws := by unfold claimRole; split <;> rfl
@[simp] theorem claimRole_delay (r : Role) (s : State) : (claimRole r s).delay = s.delay := by unfold claimRole; split <;> rfl
@[simp] theorem claimRole_prog (r : Role) (s : State) : (claimRole r s).prog = s.prog := by unfold claimRole; split <;> rfl
@[simp] theorem claimRole_seen (r : Role) (s : State) : (claimRole r s).seen = s.seen := by unfold claimRole; split <;> rfl

/-- After taking a role the session has it, if it had it or none before. -/
theorem claimRole_role (r : Role) (s : State) (h : s.role = .none ∨ s.role = r) : (claimRole r s).role = r := by
  unfold claimRole
  split
  · rfl
  · rcases h with h | h
    · contradiction
    · exact h

/-- Taking a role changes nothing else. -/
theorem claimRole_eq (r : Role) (s : State) : claimRole r s = { s with role := (claimRole r s).role } := by
  unfold claimRole
  split <;> rfl

end Sys2Proof.Machine
end

