-- ==== Sys2Proof/Laws/Memory.lean ====
section
/-! SUPPORT. Laws of one address space: a read after a write gives what was written, a write leaves every other element
alone, and every operation keeps the canonical form and the capacity (R27, R28). -/

namespace Sys2Proof.Machine

variable {w : Nat}

theorem lookup_append (xs ys : List (Nat × BitVec w)) (i : Nat) :
    Memory.lookup (xs ++ ys) i = (Memory.lookup xs i).or (Memory.lookup ys i) := by
  induction xs with
  | nil => rfl
  | cons c cs ih =>
    obtain ⟨b, v⟩ := c
    simp only [List.cons_append, Memory.lookup]
    split
    · rfl
    · exact ih

theorem lookup_filter (p : Nat → Bool) (xs : List (Nat × BitVec w)) (i : Nat) :
    Memory.lookup (xs.filter fun c => p c.1) i = if p i then Memory.lookup xs i else none := by
  induction xs with
  | nil => simp [Memory.lookup]
  | cons c cs ih =>
    obtain ⟨b, v⟩ := c
    by_cases hb : p b
    · simp only [List.filter_cons, hb, if_true, Memory.lookup, ih]
      by_cases hi : i = b
      · subst hi; simp [hb]
      · simp [hi]
    · by_cases hi : i = b
      · subst hi; simpa [List.filter_cons, hb] using ih
      · simp [hb, Memory.lookup, ih, hi]

theorem lookup_cellsFrom (a : Nat) (vs : List (BitVec w)) (i : Nat) :
    Memory.lookup (Memory.cellsFrom a vs) i = if a ≤ i then vs[i - a]? else none := by
  induction vs generalizing a with
  | nil => simp [Memory.cellsFrom, Memory.lookup]
  | cons v vs ih =>
    simp only [Memory.cellsFrom, Memory.lookup, ih]
    by_cases h : i = a
    · simp [h]
    · by_cases ha : a ≤ i
      · have : i - a = (i - (a + 1)) + 1 := by omega
        simp [h, ha, this, show a + 1 ≤ i by omega]
      · simp [h, ha, show ¬ a + 1 ≤ i by omega]

/-- What a read gives after a write. -/
theorem get_setSeq (m : Memory w) (a : Nat) (vs : List (BitVec w)) (i : Nat) :
    (m.setSeq a vs).get i = if h : a ≤ i ∧ i < a + vs.length then vs[i - a]'(by omega) else m.get i := by
  unfold Memory.get Memory.setSeq
  simp only [lookup_append, lookup_filter (fun k => decide (k < a)),
    lookup_filter (fun k => decide (a + vs.length ≤ k)), lookup_cellsFrom]
  by_cases h1 : a ≤ i
  · by_cases h2 : i < a + vs.length
    · have h3 : i - a < vs.length := by omega
      simp [h1, h2, h3, show ¬ i < a by omega]
    · simp [h1, h2, show ¬ i < a by omega, show a + vs.length ≤ i by omega,
        List.getElem?_eq_none (show vs.length ≤ i - a by omega)]
  · simp [h1, show i < a by omega, show ¬ a + vs.length ≤ i by omega]

theorem get_setSeq_inside (m : Memory w) (a : Nat) (vs : List (BitVec w)) (k : Nat) (h : k < vs.length) :
    (m.setSeq a vs).get (a + k) = vs[k] := by
  rw [get_setSeq, dif_pos ⟨by omega, by omega⟩]; simp

theorem get_setSeq_outside (m : Memory w) (a : Nat) (vs : List (BitVec w)) (i : Nat)
    (h : i < a ∨ a + vs.length ≤ i) : (m.setSeq a vs).get i = m.get i := by
  rw [get_setSeq, dif_neg (by omega)]

@[simp] theorem length_getSeq (m : Memory w) (a n : Nat) : (m.getSeq a n).length = n := by simp [Memory.getSeq]

@[simp] theorem getElem_getSeq (m : Memory w) (a n k : Nat) (h : k < (m.getSeq a n).length) :
    (m.getSeq a n)[k] = m.get (a + k) := by simp [Memory.getSeq]

/-- Reading back exactly what was written. -/
theorem getSeq_setSeq (m : Memory w) (a : Nat) (vs : List (BitVec w)) (n : Nat) (hn : n = vs.length) :
    (m.setSeq a vs).getSeq a n = vs := by
  subst hn
  refine List.ext_getElem (by simp) fun k h1 h2 => ?_
  rw [getElem_getSeq, get_setSeq_inside]

/-- Two writes, the second past the first, leave the first readable. -/
theorem getSeq_setSeq_disjoint (m : Memory w) (a n b : Nat) (vs : List (BitVec w)) (h : a + n ≤ b) :
    (m.setSeq b vs).getSeq a n = m.getSeq a n := by
  refine List.ext_getElem (by simp) fun k h1 h2 => ?_
  simp only [length_getSeq] at h1
  rw [getElem_getSeq, getElem_getSeq, get_setSeq_outside _ _ _ _ (by omega)]

/-- A read of m + n elements is a read of m and a read of the n after them. -/
theorem getSeq_append (m : Memory w) (a i n : Nat) : m.getSeq a (i + n) = m.getSeq a i ++ m.getSeq (a + i) n := by
  simp [Memory.getSeq, List.range_add, Nat.add_assoc]

@[simp] theorem setSeq_epoch (m : Memory w) (a : Nat) (vs : List (BitVec w)) : (m.setSeq a vs).epoch = m.epoch := rfl

theorem wf_fresh (w e : Nat) : (Memory.fresh w e).wf := List.Pairwise.nil

theorem within_fresh (w e cap : Nat) : (Memory.fresh w e).within cap := by simp [Memory.within, Memory.fresh]

theorem mem_cellsFrom {a : Nat} {vs : List (BitVec w)} {c : Nat × BitVec w} (h : c ∈ Memory.cellsFrom a vs) :
    a ≤ c.1 ∧ c.1 < a + vs.length := by
  induction vs generalizing a with
  | nil => simp [Memory.cellsFrom] at h
  | cons v vs ih =>
    simp only [Memory.cellsFrom, List.mem_cons] at h
    rcases h with rfl | h
    · simp
    · have := ih h; simp only [List.length_cons]; omega

theorem pairwise_cellsFrom (a : Nat) (vs : List (BitVec w)) :
    ((Memory.cellsFrom a vs).map Prod.fst).Pairwise (· < ·) := by
  induction vs generalizing a with
  | nil => simp [Memory.cellsFrom]
  | cons v vs ih =>
    simp only [Memory.cellsFrom, List.map_cons, List.pairwise_cons]
    refine ⟨fun b hb => ?_, ih (a + 1)⟩
    obtain ⟨c, hc, rfl⟩ := List.mem_map.1 hb
    have := mem_cellsFrom hc; omega

/-- A write keeps the canonical form. -/
theorem wf_setSeq (m : Memory w) (a : Nat) (vs : List (BitVec w)) (h : m.wf) : (m.setSeq a vs).wf := by
  have hsub : ∀ p : Nat × BitVec w → Bool, ((m.cells.filter p).map Prod.fst).Pairwise (· < ·) := fun p =>
    h.sublist (List.Sublist.map _ List.filter_sublist)
  simp only [Memory.wf, Memory.setSeq, List.map_append, List.pairwise_append]
  refine ⟨⟨hsub _, pairwise_cellsFrom a vs, ?_⟩, hsub _, ?_⟩
  · intro x hx y hy
    obtain ⟨c, hc, rfl⟩ := List.mem_map.1 hx
    obtain ⟨d, hd, rfl⟩ := List.mem_map.1 hy
    have := mem_cellsFrom hd
    have := (List.mem_filter.1 hc).2
    simp only [decide_eq_true_eq] at this; omega
  · intro x hx y hy
    obtain ⟨d, hd, rfl⟩ := List.mem_map.1 hy
    have hd := (List.mem_filter.1 hd).2
    simp only [decide_eq_true_eq] at hd
    rcases List.mem_append.1 hx with hx | hx
    · obtain ⟨c, hc, rfl⟩ := List.mem_map.1 hx
      have := (List.mem_filter.1 hc).2
      simp only [decide_eq_true_eq] at this; omega
    · obtain ⟨c, hc, rfl⟩ := List.mem_map.1 hx
      have := mem_cellsFrom hc; omega

/-- A write within the capacity keeps every listed index within it. -/
theorem within_setSeq (m : Memory w) (a : Nat) (vs : List (BitVec w)) (cap : Nat) (h : m.within cap)
    (hfit : a + vs.length ≤ cap) : (m.setSeq a vs).within cap := by
  intro c hc
  simp only [Memory.setSeq, List.mem_append, List.mem_filter] at hc
  rcases hc with (hc | hc) | hc
  · exact h c hc.1
  · have := mem_cellsFrom hc; omega
  · exact h c hc.1

end Sys2Proof.Machine
end

