-- ==== Sys2Proof/Laws/Units.lean ====
section
/-! SUPPORT. Spec lemmas of the pure functions of units C1 to C4: lengths, elements and bounds. -/

namespace Sys2Proof.Machine

@[simp] theorem length_filterLow (c : List Half) : (filterLow c).length = c.length := by simp [filterLow]

theorem length_filterHigh (c : List Half) : (filterHigh c).length = c.length / 2 := by
  induction c using filterHigh.induct with
  | case1 a b rest ih => simp only [filterHigh, List.length_cons, ih]; omega
  | case2 c h =>
    match c with
    | [] => rfl
    | [_] => simp [filterHigh]
    | a :: b :: rest => exact absurd rfl (h a b rest)

theorem length_unfilter (hs ls : List Byte) (h : ls.length = 2 * hs.length) : (unfilter hs ls).length = ls.length := by
  induction hs generalizing ls with
  | nil =>
    simp only [List.length_nil, Nat.mul_zero, List.length_eq_zero_iff] at h
    subst h; rfl
  | cons x hs ih =>
    match ls, h with
    | a :: b :: ls, h =>
      simp only [List.length_cons] at h
      simp only [unfilter, List.length_cons, ih ls (by omega)]

theorem length_rescale (c : List Half) : (rescale c).codes.length = c.length := by
  unfold rescale
  split
  · rfl
  · dsimp only
    split
    · rfl
    · split <;> simp

theorem length_unrescale (c : List Half) (mn mx : Half) : (unrescale c mn mx).length = c.length := by
  unfold unrescale
  split
  · rfl
  · split <;> simp

theorem length_imageOf (hs ls : List Byte) (mn mx : Half) (h : ls.length = 2 * hs.length) :
    (imageOf hs ls mn mx).length = ls.length := by
  simp [imageOf, length_unrescale, length_unfilter hs ls h]

@[simp] theorem length_le16 (v : Half) : (le16 v).length = 2 := rfl

@[simp] theorem length_le32 (v : Word) : (le32 v).length = 4 := rfl

/-- A frame is 26 + |hi| + |lo| bytes long (R56, R86). -/
theorem length_assemble (flags : BitVec 2) (fn w h mn mx : Half) (hub : Word) (hi lo : List Byte) :
    (assemble flags fn w h mn mx hub hi lo).length = headerBytes + hi.length + lo.length := by
  simp [assemble, headerBytes]; omega

/-- The 26 header bytes of a frame, and its payloads after them (R56, R86). -/
theorem assemble_eq (flags : BitVec 2) (fn w h mn mx : Half) (hub : Word) (hi lo : List Byte) :
    assemble flags fn w h mn mx hub hi lo =
      magic :: flagsByte flags :: fn.extractLsb' 0 8 :: fn.extractLsb' 8 8 :: w.extractLsb' 0 8 :: w.extractLsb' 8 8 ::
      h.extractLsb' 0 8 :: h.extractLsb' 8 8 :: mn.extractLsb' 0 8 :: mn.extractLsb' 8 8 :: mx.extractLsb' 0 8 ::
      mx.extractLsb' 8 8 :: hub.extractLsb' 0 8 :: hub.extractLsb' 8 8 :: hub.extractLsb' 16 8 :: hub.extractLsb' 24 8 ::
      (BitVec.ofNat 32 hi.length).extractLsb' 0 8 :: (BitVec.ofNat 32 hi.length).extractLsb' 8 8 ::
      (BitVec.ofNat 32 hi.length).extractLsb' 16 8 :: (BitVec.ofNat 32 hi.length).extractLsb' 24 8 ::
      (BitVec.ofNat 32 lo.length).extractLsb' 0 8 :: (BitVec.ofNat 32 lo.length).extractLsb' 8 8 ::
      (BitVec.ofNat 32 lo.length).extractLsb' 16 8 :: (BitVec.ofNat 32 lo.length).extractLsb' 24 8 ::
      0x00 :: 0x00 :: (hi ++ lo) := by
  simp [assemble, le16, le32]

/-- A u16 is its high byte appended to its low byte. -/
theorem append_bytes16 (v : Half) : v.extractLsb' 8 8 ++ v.extractLsb' 0 8 = v := by
  refine BitVec.eq_of_getLsbD_eq fun i hi => ?_
  simp only [BitVec.getLsbD_append, BitVec.getLsbD_extractLsb']
  by_cases h : i < 8
  · simp [h]
  · simp [h, show i - 8 < 8 by omega, show 8 + (i - 8) = i by omega]

/-- A u32 is its four bytes appended, highest first. -/
theorem append_bytes32 (v : Word) :
    ((v.extractLsb' 24 8 ++ v.extractLsb' 16 8) ++ v.extractLsb' 8 8) ++ v.extractLsb' 0 8 = v := by
  refine BitVec.eq_of_getLsbD_eq fun i hi => ?_
  simp only [BitVec.getLsbD_append, BitVec.getLsbD_extractLsb']
  by_cases h : i < 8
  · simp [h]
  · by_cases h2 : i < 16
    · simp [h, show i - 8 < 8 by omega, show 8 + (i - 8) = i by omega]
    · by_cases h3 : i < 24
      · simp [h, show ¬ i - 8 < 8 by omega, show i - 8 - 8 < 8 by omega, show 16 + (i - 8 - 8) = i by omega]
      · simp [h, show ¬ i - 8 < 8 by omega, show ¬ i - 8 - 8 < 8 by omega, show i - 8 - 8 - 8 < 8 by omega,
          show 24 + (i - 8 - 8 - 8) = i by omega]

/-- The image ENCODE rescales has N samples. -/
theorem length_rescaledImage (s : State) : s.rescaledImage.codes.length = s.opSamples := by
  simp [State.rescaledImage, length_rescale]

/-- A legal dimension is between 1 and 4096 (R57). -/
theorem legalDim_iff (v : Half) : legalDim v = true ↔ 1 ≤ v.toNat ∧ v.toNat ≤ 4096 := by
  unfold legalDim
  rw [Bool.and_eq_true, decide_eq_true_eq, decide_eq_true_eq]
  rfl

/-- Two legal dimensions give at most N_MAX samples (R6). -/
theorem legalDim_product {w h : Half} (hw : legalDim w = true) (hh : legalDim h = true) :
    w.toNat * h.toNat ≤ nMax := by
  rw [legalDim_iff] at hw hh
  have := Nat.mul_le_mul hw.2 hh.2
  simpa [nMax] using this

/-- ENCODE's operand check, as R103 writes it. -/
theorem badImageSize_eq_false (s : State) :
    s.badImageSize = false ↔ (legalDim s.op.w = true ∧ legalDim s.op.h = true) ∧ s.opSamples % 2 = 0 := by
  simp [State.badImageSize]

/-- FILTER's and UNFILTER's operand check, as R84 and R85 write it. -/
theorem badPairCount_eq_false (s : State) :
    s.badPairCount = false ↔ s.opCount ≤ nMax ∧ s.opCount % 2 = 0 := by
  simp [State.badPairCount]

/-- FASM's operand check, as R93 writes it. -/
theorem badSections_eq_false (s : State) :
    s.badSections = false ↔ s.op.hcb.toNat ≤ nMax / 2 ∧ s.op.lcb.toNat ≤ nMax + nMax / 2 ∧
      headerBytes + s.op.hcb.toNat + s.op.lcb.toNat ≤ s.params.frameCap := by
  simp only [State.badSections, Bool.or_eq_false_iff, decide_eq_false_iff_not, Nat.not_lt]
  omega

/-- The OP_FLEN check, as R94 writes it. -/
theorem badFrameLength_eq_false (s : State) :
    s.badFrameLength = false ↔ s.opFrameLength ≤ s.params.frameCap := by
  simp [State.badFrameLength]

/-- DECODE's consistency checks, as R107 writes them. -/
theorem inconsistent_eq_false (hdr : Header) :
    inconsistent hdr = false ↔ (hdr.w.toNat * hdr.h.toNat) % 2 = 0 ∧
      hdr.hub.toNat = hdr.w.toNat * hdr.h.toNat / 2 ∧ hdr.hcb ≠ 0 ∧ hdr.lcb ≠ 0 := by
  simp [inconsistent, and_assoc]

/-- What a frame that parses satisfies (R87). -/
theorem parse_header {f : List Byte} {hdr : Header} (h : parse f = .header hdr) :
    hdr = headerOf f ∧ headerBytes ≤ f.length ∧ byteAt f 0 = magic ∧ 2 ≤ hdr.hub.toNat ∧
      f.length = headerBytes + hdr.hcb.toNat + hdr.lcb.toNat ∧ legalDim hdr.w = true ∧ legalDim hdr.h = true := by
  unfold parse at h
  split at h
  · cases h
  · split at h
    · cases h
    · split at h
      · cases h
      · split at h
        · cases h
        · split at h
          · cases h
          · rename_i h1 h2 h3 h4 h5
            cases h
            simp only [Bool.not_eq_true, Bool.not_eq_false', Bool.and_eq_true] at h5
            refine ⟨rfl, by omega, by simpa using h2, ?_, Decidable.not_not.1 h4, h5.1, h5.2⟩
            show 2 ≤ (rd32 f 12).toNat
            omega

/-- The errors `parse` can give (R87). -/
theorem parse_error {f : List Byte} {e : Result} (h : parse f = .error e) :
    e = .fileTruncated ∨ e = .wrongFormat ∨ e = .corrupted := by
  unfold parse at h
  split at h
  · cases h; simp
  · split at h
    · cases h; simp
    · split at h
      · cases h; simp
      · split at h
        · cases h; simp
        · split at h
          · cases h; simp
          · cases h

end Sys2Proof.Machine
end

