-- ==== Sys2Proof/Laws/Commands.lean ====
section
/-! SUPPORT. What each shared operation and each long command can do, once: inversion lemmas ("if it answers next t, then
…") and frames, for the proofs to cite. -/

namespace Sys2Proof.Machine

@[simp] theorem raise_next (r : Result) (s t : State) : raise r s = .next t ↔ t = endCommand r s := by
  simp only [raise, Host.Outcome.next.injEq]; exact eq_comm

@[simp] theorem succeed_next (s t : State) : succeed s = .next t ↔ t = endCommand .success s := by
  simp only [succeed, Host.Outcome.next.injEq]; exact eq_comm

/-! The ports. -/

/-- The bits VC-IDEAL answers (R48). -/
theorem encodeAnswer_bits_ideal {p : Params} (h : p.videoCoder = .ideal) (draw : Nat) (ctx : Vctx) (job : EncodeJob) :
    (encodeAnswer p draw ctx job).bits = job.plane.take (job.width * job.height) := by
  simp [encodeAnswer, h]

/-- The context an encode leaves is free, whichever the codec (R45; log 25). -/
@[simp] theorem encodeAnswer_ctx (p : Params) (draw : Nat) (ctx : Vctx) (job : EncodeJob) :
    (encodeAnswer p draw ctx job).ctx = (Config.vcEncode draw ctx job).ctx := by
  cases h : p.videoCoder <;> simp [encodeAnswer, h]

/-- The context a decode leaves is free, whichever the codec (R46; log 25). -/
@[simp] theorem decodeAnswer_ctx (p : Params) (draw : Nat) (ctx : Vctx) (job : DecodeJob) :
    (decodeAnswer p draw ctx job).ctx = (Config.vcDecode draw ctx job).ctx := by
  cases h : p.videoCoder <;> simp [decodeAnswer, h]

/-- The plane VC-IDEAL answers (R48). -/
theorem decodeAnswer_plane_ideal {p : Params} (h : p.videoCoder = .ideal) (draw : Nat) (ctx : Vctx) (job : DecodeJob) :
    (decodeAnswer p draw ctx job).plane = if job.bits.length = job.width * job.height then some job.bits else none := by
  simp [decodeAnswer, h]

/-- The plane the open codec answers: the free one when it has N bytes (R46). -/
theorem decodeAnswer_plane_open {p : Params} (h : p.videoCoder = .open_) (draw : Nat) (ctx : Vctx) (job : DecodeJob) :
    (decodeAnswer p draw ctx job).plane
      = (Config.vcDecode draw ctx job).plane.filter (fun plane => plane.length == job.width * job.height) := by
  simp [decodeAnswer, h]

/-- A plane the codec answers has exactly N bytes (R46). -/
theorem decodeAnswer_length {p : Params} {draw : Nat} {ctx : Vctx} {job : DecodeJob} {plane : List Byte}
    (h : (decodeAnswer p draw ctx job).plane = some plane) : plane.length = job.width * job.height := by
  cases hc : p.videoCoder with
  | open_ =>
    rw [decodeAnswer_plane_open hc] at h
    simpa using (Option.filter_eq_some_iff.1 h).2
  | ideal =>
    rw [decodeAnswer_plane_ideal hc] at h
    split at h
    · cases h; assumption
    · cases h

/-- `VC.decode` changes VCTX and the draw counter, nothing else (R46). -/
theorem vcDecode_frame (job : DecodeJob) (s : State) :
    (vcDecode job s).1 = { s with vctx := (vcDecode job s).1.vctx, draws := (vcDecode job s).1.draws } := rfl

/-- A plane `VC.decode` returns has exactly N bytes (R46). -/
theorem vcDecode_length {job : DecodeJob} {s : State} {plane : List Byte} (h : (vcDecode job s).2 = some plane) :
    plane.length = job.width * job.height := decodeAnswer_length h

/-- What `VC.encode_finish` does with an encode in flight (R38, R45). -/
theorem vcEncodeFinish_some {s : State} {job : EncodeJob} (h : s.encJob = some job) :
    vcEncodeFinish s =
      ({ s with
          encJob := none
          vctx := (Config.vcEncode s.draws s.vctx job).ctx
          ls := chromaWritten (job.width * job.height) s
          draws := s.draws + 1 },
        (encodeAnswer s.params s.draws s.vctx job).bits) := by
  simp [vcEncodeFinish, h]

/-- `VC.encode_finish` changes LS, VCTX and the draw counter, and no encode is in flight after it (R25, R38). -/
theorem vcEncodeFinish_frame (s : State) :
    (vcEncodeFinish s).1 = { s with
      ls := (vcEncodeFinish s).1.ls
      vctx := (vcEncodeFinish s).1.vctx
      encJob := none
      draws := (vcEncodeFinish s).1.draws } := by
  unfold vcEncodeFinish
  split
  · next h => cases s; simp_all
  · rfl

/-- The chroma scratch keeps LS's canonical form, and its bound when it fits. -/
theorem chromaWritten_ls (n : Nat) (s : State) (cap : Nat) (hwf : s.ls.wf) (hin : s.ls.within cap) (hfit : n + n / 2 ≤ cap) :
    (chromaWritten n s).wf ∧ (chromaWritten n s).within cap := by
  unfold chromaWritten
  split
  · exact ⟨hwf, hin⟩
  · exact ⟨wf_setSeq _ _ _ hwf, within_setSeq _ _ _ _ hin (by simpa using hfit)⟩

/-- `VC.encode_finish` leaves LS's canonical form, and its bound when the chroma scratch fits. -/
theorem vcEncodeFinish_ls (s : State) (cap : Nat) (hwf : s.ls.wf) (hin : s.ls.within cap)
    (hfit : ∀ job, s.encJob = some job → job.width * job.height + job.width * job.height / 2 ≤ cap) :
    (vcEncodeFinish s).1.ls.wf ∧ (vcEncodeFinish s).1.ls.within cap := by
  cases h : s.encJob with
  | none => rw [show vcEncodeFinish s = (s, []) by simp [vcEncodeFinish, h]]; exact ⟨hwf, hin⟩
  | some job => rw [vcEncodeFinish_some h]; exact chromaWritten_ls _ s cap hwf hin (hfit job h)

/-- The chroma scratch handed to the encoder has N/2 bytes (R24). -/
@[simp] theorem length_chromaHanded (n : Nat) (s : State) : (chromaHanded n s).length = n / 2 := by
  unfold chromaHanded
  split <;> simp

/-- `loadScratch` changes HS, LS and the draw counter. -/
theorem loadScratch_frame (codes : List Half) (n : Nat) (s : State) :
    loadScratch codes n s = { s with
      hs := s.hs.setSeq 0 (filterHigh codes)
      ls := (loadScratch codes n s).ls
      draws := (loadScratch codes n s).draws } := rfl

/-- `loadScratch` leaves LS's canonical form, and its bound. -/
theorem loadScratch_ls (codes : List Half) (n : Nat) (s : State) (cap : Nat) (hwf : s.ls.wf) (hin : s.ls.within cap)
    (hcodes : codes.length = n) (hfit : n + n / 2 ≤ cap) :
    (loadScratch codes n s).ls.wf ∧ (loadScratch codes n s).ls.within cap :=
  ⟨wf_setSeq _ _ _ (wf_setSeq _ _ _ hwf),
    within_setSeq _ _ _ _ (within_setSeq _ _ _ _ hin (by simp; omega)) (by simpa using hfit)⟩

/-- LS[0 .. N + N/2) as ENCODE hands it to the video encoder: the low plane, then the chroma scratch (R24, R38). -/
theorem loadScratch_handed (codes : List Half) (n : Nat) (s : State) (hcodes : codes.length = n) :
    (loadScratch codes n s).ls.getSeq 0 (n + n / 2) = filterLow codes ++ chromaHanded n s := by
  have hc : (loadScratch codes n s).ls.getSeq n (n / 2) = chromaHanded n s := getSeq_setSeq _ _ _ _ (by simp)
  have hl : (loadScratch codes n s).ls.getSeq 0 n = filterLow codes := by
    rw [show (loadScratch codes n s).ls = (s.ls.setSeq 0 (filterLow codes)).setSeq n (chromaHanded n s) from rfl,
      getSeq_setSeq_disjoint _ _ _ _ _ (by omega), getSeq_setSeq _ _ _ _ (by simp [hcodes])]
  rw [getSeq_append, hl, Nat.zero_add, hc]

/-! ENCODE. -/

/-- The three coder calls of ENCODE change HS, LS, VCTX and the draw counter; no encode is in flight after them. -/
theorem encodePayloads_frame (key : Bool) (s : State) :
    (encodePayloads key s).1 = { s with
      hs := s.hs.setSeq 0 (filterHigh s.rescaledImage.codes)
      ls := (encodePayloads key s).1.ls
      vctx := (encodePayloads key s).1.vctx
      encJob := none
      draws := (encodePayloads key s).1.draws } := by
  unfold encodePayloads
  dsimp only
  rw [vcEncodeFinish_frame]
  rw [show ∀ job t, (vcEncodeBegin job t) = { t with encJob := some job } from fun _ _ => rfl]
  rw [loadScratch_frame]

/-- The entropy coder is handed the high stream of the image (R38, R103). -/
theorem encodePayloads_hi (key : Bool) (s : State) :
    (encodePayloads key s).2.hi = ecCompress s.params (filterHigh s.rescaledImage.codes) := by
  unfold encodePayloads
  dsimp only
  rw [vcEncodeBegin_params, vcEncodeBegin_hs, loadScratch_frame]
  dsimp only
  rw [getSeq_setSeq _ _ _ _ (by rw [length_filterHigh, length_rescaledImage])]

/-- Everything the three coder calls of ENCODE give: the high payload is the compressed high stream, and the video encoder's
one answer to the job of R45 and R103 gives the low payload and VCTX. -/
theorem encodePayloads_eq (key : Bool) (s : State) :
    let job : EncodeJob := ⟨s.opVParams, s.op.w.toNat, s.op.h.toNat, codecOf s.op.type, key,
      filterLow s.rescaledImage.codes ++ chromaHanded s.opSamples s⟩
    (encodePayloads key s).2 =
      ⟨ecCompress s.params (filterHigh s.rescaledImage.codes), (encodeAnswer s.params (drawsHanded s) s.vctx job).bits⟩ ∧
    (encodePayloads key s).1.vctx = (Config.vcEncode (drawsHanded s) s.vctx job).ctx ∧
    (encodePayloads key s).1.draws = drawsHanded s + 1 := by
  have hjob : (loadScratch s.rescaledImage.codes s.opSamples s).encodeJob key =
      ⟨s.opVParams, s.op.w.toNat, s.op.h.toNat, codecOf s.op.type, key,
        filterLow s.rescaledImage.codes ++ chromaHanded s.opSamples s⟩ := by
    rw [← loadScratch_handed _ _ s (length_rescaledImage s)]
    rfl
  have hhi := encodePayloads_hi key s
  unfold encodePayloads at hhi ⊢
  dsimp only at hhi ⊢
  rw [hhi, vcEncodeFinish_some (vcEncodeBegin_encJob _ _), hjob]
  exact ⟨rfl, rfl, rfl⟩

/-- With VC-IDEAL the low payload is the low plane of the image (R48). -/
theorem encodePayloads_lo_ideal (key : Bool) (s : State) (h : s.params.videoCoder = .ideal) :
    (encodePayloads key s).2.lo = filterLow s.rescaledImage.codes := by
  rw [(encodePayloads_eq key s).1]
  dsimp only
  rw [encodeAnswer_bits_ideal h, List.take_left']
  rw [length_filterLow, length_rescaledImage]
  rfl

/-- Everything ENCODE can do (R98, R103): if it answers a next state, one of these three cases holds. -/
theorem encodeWith_next {k : Bool} {s t : State} (h : encodeWith k s = .next t) :
    (s.role = .dec ∧ t = endCommand .illegalCommand s) ∨
    (s.role ≠ .dec ∧ s.badImageSize = true ∧ t = endCommand .badOperand s) ∨
    (s.role ≠ .dec ∧ s.badImageSize = false ∧
      headerBytes + (encodePayloads (keyframe k s) (claimRole .enc s)).2.hi.length
        + (encodePayloads (keyframe k s) (claimRole .enc s)).2.lo.length ≤ s.params.frameCap ∧
      t = endCommand .success
        (emitFrame
          ((claimRole .enc s).encodeHeader (keyframe k s) (encodePayloads (keyframe k s) (claimRole .enc s)).2)
          (encodePayloads (keyframe k s) (claimRole .enc s)).2
          (encodePayloads (keyframe k s) (claimRole .enc s)).1)) := by
  unfold encodeWith at h
  split at h
  · next hr => exact .inl ⟨hr, (raise_next _ _ _).1 h⟩
  · next hr =>
    split at h
    · next hb => exact .inr (.inl ⟨hr, hb, (raise_next _ _ _).1 h⟩)
    · next hb =>
      unfold encodeImage at h
      dsimp only at h
      split at h
      · cases h
      · next hc =>
        refine .inr (.inr ⟨hr, by simpa using hb, ?_, (succeed_next _ _).1 h⟩)
        rw [claimRole_params] at hc
        omega

/-! DECODE. -/

/-- A one-bit register holds 0 or 1. -/
theorem bit_cases (b : BitVec 1) : b = 0 ∨ b = 1 := by revert b; decide

/-- Everything DECODE can do to a parsed frame (R105 to R109): it fails, and leaves at most HS, VCTX and the draw counter
changed, or every check passes and it delivers the image. -/
theorem decodeParsed_next {f : List Byte} {hdr : Header} {s t : State} (h : decodeParsed f hdr s = .next t) :
    ((t.result = .missingFrame ∨ t.result = .corrupted) ∧
      t = { s with
        result := t.result, busy := false, hs := t.hs, vctx := t.vctx, draws := t.draws }) ∨
    ∃ hs plane, (hdr.key = 1 ∨ s.frameCount ≠ 0) ∧ inconsistent hdr = false ∧
      ecDecompress s.params (highSection f hdr) hdr.hub.toNat = some hs ∧ hs.length = hdr.hub.toNat ∧
      (vcDecode (decodeJob f hdr) { s with hs := s.hs.setSeq 0 hs }).2 = some plane ∧
      t = endCommand .success
        (deliverImage hdr plane (vcDecode (decodeJob f hdr) { s with hs := s.hs.setSeq 0 hs }).1) := by
  unfold decodeParsed at h
  split at h
  · rw [raise_next] at h; subst h
    exact .inl ⟨.inl rfl, rfl⟩
  · next hk =>
    split at h
    · rw [raise_next] at h; subst h
      exact .inl ⟨.inr rfl, rfl⟩
    · next hi =>
      split at h
      · rw [raise_next] at h; subst h
        exact .inl ⟨.inr rfl, rfl⟩
      · next hs hec =>
        split at h
        · rw [raise_next] at h; subst h
          exact .inl ⟨.inr rfl, rfl⟩
        · next hlen =>
          unfold decodeLow at h
          dsimp only at h
          split at h
          · rw [raise_next] at h; subst h
            refine .inl ⟨.inr rfl, ?_⟩
            rw [vcDecode_frame]; rfl
          · next plane hp =>
            rw [succeed_next] at h
            refine .inr ⟨hs, plane, ?_, by simpa using hi, hec, by simpa using hlen, hp, h⟩
            rcases bit_cases hdr.key with hk' | hk'
            · exact .inr fun h0 => hk ⟨hk', h0⟩
            · exact .inl hk'

/-- Everything DECODE can do (R98, R109, R122): refused before any change; or an error that leaves at most ROLE, HS, VCTX and
the draw counter changed; or an image delivered. -/
theorem execDecode_next {s t : State} (h : execDecode s = .next t) :
    (s.role = .enc ∧ t = endCommand .illegalCommand s) ∨
    (s.role ≠ .enc ∧ s.badFrameLength = true ∧ t = endCommand .badOperand s) ∨
    (s.role ≠ .enc ∧ s.badFrameLength = false ∧
      (t.result = .fileTruncated ∨ t.result = .wrongFormat ∨ t.result = .corrupted ∨ t.result = .missingFrame) ∧
      t = { claimRole .dec s with
        result := t.result, busy := false, hs := t.hs, vctx := t.vctx, draws := t.draws }) ∨
    (s.role ≠ .enc ∧ s.badFrameLength = false ∧ ∃ hdr hs plane, parse s.inputFrame = .header hdr ∧
      (hdr.key = 1 ∨ s.frameCount ≠ 0) ∧ inconsistent hdr = false ∧
      ecDecompress s.params (highSection s.inputFrame hdr) hdr.hub.toNat = some hs ∧ hs.length = hdr.hub.toNat ∧
      (vcDecode (decodeJob s.inputFrame hdr) { claimRole .dec s with hs := s.hs.setSeq 0 hs }).2 = some plane ∧
      t = endCommand .success (deliverImage hdr plane
        (vcDecode (decodeJob s.inputFrame hdr) { claimRole .dec s with hs := s.hs.setSeq 0 hs }).1)) := by
  have hframe : (claimRole .dec s).inputFrame = s.inputFrame := by
    simp [State.inputFrame, State.opFrameLength]
  unfold execDecode at h
  split at h
  · next hr => exact .inl ⟨hr, (raise_next _ _ _).1 h⟩
  · next hr =>
    split at h
    · next hb => exact .inr (.inl ⟨hr, hb, (raise_next _ _ _).1 h⟩)
    · next hb =>
      refine .inr (.inr ?_)
      have hb : s.badFrameLength = false := by simpa using hb
      unfold decodeFrame at h
      rw [hframe] at h
      split at h
      · next e he =>
        rw [raise_next] at h; subst h
        refine .inl ⟨hr, hb, ?_, rfl⟩
        rcases parse_error he with rfl | rfl | rfl <;> simp
      · next hdr hp =>
        rcases decodeParsed_next h with ⟨hres, ht⟩ | ⟨hs, plane, hk, hi, hec, hlen, hvc, ht⟩
        · refine .inl ⟨hr, hb, ?_, ht⟩
          rcases hres with h | h <;> simp [h]
        · refine .inr ⟨hr, hb, hdr, hs, plane, hp, ?_, hi, ?_, hlen, ?_, ?_⟩
          · simpa using hk
          · simpa using hec
          · simpa using hvc
          · simpa using ht

/-- A delivered image changes LS, DOUT, FRAME_COUNT and the response registers. -/
theorem deliverImage_frame (hdr : Header) (plane : List Byte) (s : State) :
    deliverImage hdr plane s = { s with
      ls := (deliverImage hdr plane s).ls
      dout := (deliverImage hdr plane s).dout
      frameCount := s.frameCount + 1
      resp := (deliverImage hdr plane s).resp } := rfl

/-- An emitted frame changes FOUT, FRAME_COUNT and the response registers. -/
theorem emitFrame_frame (hdr : Header) (p : Payloads) (s : State) :
    emitFrame hdr p s = { s with
      fout := (emitFrame hdr p s).fout
      frameCount := s.frameCount + 1
      resp := (emitFrame hdr p s).resp } := rfl

/-! Steps. -/

/-- A step that answers a next state is a step of the core or of the host, with no model fault recorded (R7, R125). -/
theorem step_next {s t : State} (h : step s = .next t) :
    s.faultRec = none ∧ ((s.coreMoves = true ∧ runCommand s = .next t) ∨
      (s.coreMoves = false ∧ hostMove (spendDelay s) = .next t)) := by
  unfold step at h
  split at h
  · cases h
  · next hf =>
    refine ⟨hf, ?_⟩
    unfold moveNext at h
    split at h
    · next hc => exact .inl ⟨hc, h⟩
    · next hc => exact .inr ⟨by simpa using hc, h⟩

/-- The core runs a command or raises IllegalCommand (R19, R53). -/
theorem runCommand_next {s t : State} (h : runCommand s = .next t) :
    (∃ i, decode s.cmd = .ok i ∧ exec i s = .next t) ∨
    ((∃ e, decode s.cmd = .error e) ∧ t = endCommand .illegalCommand s) := by
  unfold runCommand at h
  split at h
  · next i hi => exact .inl ⟨i, hi, h⟩
  · next e he => exact .inr ⟨⟨e, he⟩, (raise_next _ _ _).1 h⟩

end Sys2Proof.Machine
end

