-- ==== Sys2Proof/Laws/PerInstr.lean ====
section
/-! SUPPORT. The per-command family Encoding: the fields of every command are legal and stand in its word where R51 puts
them. -/

namespace Sys2Proof.Laws.Encoding

/-- The word of `i` holds exactly the fields of `i`, and they are legal (R51, R53). -/
def Statement (i : Instr) : Prop := i.wf = true ∧ commandFields (encode i) = i.fields

theorem sreset : Statement .sreset := by unfold Statement; decide
theorem quant : Statement .quant := by unfold Statement; decide
theorem dequant : Statement .dequant := by unfold Statement; decide
theorem rescale : Statement .rescale := by unfold Statement; decide
theorem unrescale : Statement .unrescale := by unfold Statement; decide
theorem filter : Statement .filter := by unfold Statement; decide
theorem unfilter : Statement .unfilter := by unfold Statement; decide
theorem fasm : Statement .fasm := by unfold Statement; decide
theorem fparse : Statement .fparse := by unfold Statement; decide
theorem isdepth : Statement .isdepth := by unfold Statement; decide
theorem iskey : Statement .iskey := by unfold Statement; decide
theorem encode : Statement .encode := by unfold Statement; decide
theorem encodeK : Statement .encodeK := by unfold Statement; decide
theorem decode : Statement .decode := by unfold Statement; decide

end Sys2Proof.Laws.Encoding
end

