-- ==== Sys2Proof/Machine/HostAsm.lean ====
section
/-! DEFINITION. The pseudo-instructions of the host assembly and their expansions (R55). -/

namespace Sys2Proof.Machine

/-- `cmd <MNEMONIC>`: writes the command word of R52 to CMD. -/
def asmCmd (i : Instr) : HostStmt := .wr 0x30 ((encode i).setWidth 32)

/-- `encode W, H, T`. -/
def asmEncode (w h t : Word) : List HostStmt := [.wr 0x01 w, .wr 0x02 h, .wr 0x03 t, asmCmd .encode]

/-- `encode.k W, H, T`. -/
def asmEncodeK (w h t : Word) : List HostStmt := [.wr 0x01 w, .wr 0x02 h, .wr 0x03 t, asmCmd .encodeK]

/-- `decode L`. -/
def asmDecode (len : Word) : List HostStmt := [.wr 0x06 len, asmCmd .decode]

/-- `unrescale n, mn, mx`. -/
def asmUnrescale (n mn mx : Word) : List HostStmt := [.wr 0x00 n, .wr 0x04 mn, .wr 0x05 mx, asmCmd .unrescale]

/-- `unit <MNEMONIC> n`. -/
def asmUnit (i : Instr) (n : Word) : List HostStmt := [.wr 0x00 n, asmCmd i]

end Sys2Proof.Machine
end

