-- ==== Sys2Proof/Tests/Slice0.lean ====
section
/-! SUPPORT. Tests. Every expected value comes from spec/: the test vectors of 95_test_vectors.md, named by their id, the
rules' own examples, or the encoding tables of 30_encoding.md. -/

namespace Sys2Proof.Machine

/-- Holds when a step answers a next state with the property. -/
def onNext (a : Answer) (p : State → Bool) : Bool :=
  match a with
  | .next t => p t
  | _ => false

/-- Holds when a step answers that model fault. -/
def onFault (a : Answer) (r : Fault) : Bool :=
  match a with
  | .fault f => f == r
  | _ => false

/-- A bench: block reset with the stub coders of R48, zero chroma and a 64-byte FRAME_CAP. -/
def bench : State :=
  { State.reset with params := ⟨64, .zero, .identity, .ideal⟩ }

/-- A u16 space holding a sequence from index 0. -/
def holds16 (vs : List Half) : Memory 16 := (Memory.fresh 16 0).setSeq 0 vs

/-- A u8 space holding a sequence from index 0. -/
def holds8 (vs : List Byte) : Memory 8 := (Memory.fresh 8 0).setSeq 0 vs

/-- The bench with OP_N set. -/
def benchN (n : Word) : State := { bench with op := { bench.op with n := n } }

/-- Frame A of 95_test_vectors.md section 5. -/
def frameA : List Byte :=
  [0xCA, 0x01, 0x00, 0x00, 0x04, 0x00, 0x01, 0x00, 0x2C, 0x01, 0xA3, 0x02, 0x02, 0x00, 0x00, 0x00,
   0x02, 0x00, 0x00, 0x00, 0x04, 0x00, 0x00, 0x00, 0x00, 0x00, 0x10, 0x08, 0x00, 0x01, 0x04, 0x00]

/-- The P-frame of vector S-4b. -/
def frameS4b : List Byte :=
  [0xCA, 0x00, 0x01, 0x00, 0x04, 0x00, 0x01, 0x00, 0x2C, 0x01, 0xA3, 0x02, 0x02, 0x00, 0x00, 0x00,
   0x02, 0x00, 0x00, 0x00, 0x04, 0x00, 0x00, 0x00, 0x00, 0x00, 0x10, 0x08, 0x00, 0x01, 0x04, 0x00]

/-- The bench with a frame in FIN and OP_FLEN set. -/
def benchFrame (f : List Byte) (len : Word) : State :=
  { bench with fin := holds8 f, op := { bench.op with flen := len } }

/-- The bench with an image in DIN and OP_W, OP_H, OP_TYPE set. -/
def benchImage (vs : List Half) (w h : Half) (t : BitVec 1) : State :=
  { bench with din := holds16 vs, op := { bench.op with w := w, h := h, type := t } }

/-! WellFormed: one ill-formed term for each check (R53; vectors X-1, X-2, X-3). -/

theorem test_wf_refuses_reserved_opcode : (CommandFields.mk 0xD false 0).wf = false := by decide
theorem test_wf_refuses_reserved_bits : (CommandFields.mk 0x1 false 1).wf = false := by decide
theorem test_wf_refuses_key_on_quant : (CommandFields.mk 0x1 true 0).wf = false := by decide
theorem test_wf_opcode_check : (CommandFields.mk 0xF false 0).opcodeAssigned = false := by decide
theorem test_wf_reserved_check : (CommandFields.mk 0xB true 4).reservedClear = false := by decide
theorem test_wf_key_check : (CommandFields.mk 0xC true 0).keyOnlyOnEncode = false := by decide
theorem test_wf_accepts_encodeK : (CommandFields.mk 0xB true 0).wf = true := by decide

/-! Decode: each command's word, written out from R51 and R52 as RSV, K, OPC. -/

theorem test_decode_sreset : decode 0b00000000#8 = .ok .sreset := by decide
theorem test_decode_quant : decode 0b00000001#8 = .ok .quant := by decide
theorem test_decode_dequant : decode 0b00000010#8 = .ok .dequant := by decide
theorem test_decode_rescale : decode 0b00000011#8 = .ok .rescale := by decide
theorem test_decode_unrescale : decode 0b00000100#8 = .ok .unrescale := by decide
theorem test_decode_filter : decode 0b00000101#8 = .ok .filter := by decide
theorem test_decode_unfilter : decode 0b00000110#8 = .ok .unfilter := by decide
theorem test_decode_fasm : decode 0b00000111#8 = .ok .fasm := by decide
theorem test_decode_fparse : decode 0b00001000#8 = .ok .fparse := by decide
theorem test_decode_isdepth : decode 0b00001001#8 = .ok .isdepth := by decide
theorem test_decode_iskey : decode 0b00001010#8 = .ok .iskey := by decide
theorem test_decode_encode : decode 0b00001011#8 = .ok .encode := by decide
theorem test_decode_encodeK : decode 0b00011011#8 = .ok .encodeK := by decide
theorem test_decode_decode : decode 0b00001100#8 = .ok .decode := by decide
/-- X-1. -/
theorem test_decode_reserved_opcode : decode 0x0D = .error .reservedOpcode := by decide
/-- X-2. -/
theorem test_decode_reserved_bits : decode 0x21 = .error .reservedBits := by decide
/-- X-3. -/
theorem test_decode_key_on_quant : decode 0x11 = .error .keyWithoutEncode := by decide

/-! Quantizer (section 2). -/

theorem test_quant_bands :
    ([200, 201, 749, 750, 751, 1499, 1500, 1503, 1504, 2999, 3000, 3007, 3008, 5999, 6000, 6015, 6016, 11823, 11824,
      11839, 11840, 65535].map quant)
      = [0, 1, 549, 550, 550, 924, 925, 925, 926, 1299, 1300, 1300, 1301, 1674, 1675, 1675, 1676, 2038, 2039, 2039,
         0, 0] := by decide
theorem test_dequant_bands :
    ([0, 1, 300, 549, 550, 675, 924, 925, 1299, 1300, 1674, 1675, 2039, 2040, 2047, 65535].map dequant)
      = [0, 201, 500, 749, 750, 1000, 1498, 1500, 2996, 3000, 5992, 6000, 11824, 0, 0, 0] := by decide
/-- Q-2. -/
theorem test_QUANT :
    onNext (exec .quant { benchN 4 with din := holds16 [200, 201, 11839, 11840] })
      (fun t => t.cbuf.getSeq 0 4 == [0, 1, 2039, 0] && t.result == .success) = true := by decide
/-- Q-5: OP_N = N_MAX + 1. -/
theorem test_QUANT_badOperand :
    onNext (exec .quant (benchN 16777217)) (fun t => t.result == .badOperand && t.cbuf == bench.cbuf) = true := by decide
/-- Q-7. -/
theorem test_DEQUANT :
    onNext (exec .dequant { benchN 3 with cbuf := holds16 [2040, 65535, 2039] })
      (fun t => t.dout.getSeq 0 3 == [0, 0, 11824]) = true := by decide
/-- Q-8. -/
theorem test_DEQUANT_badOperand :
    onNext (exec .dequant (benchN 0xFFFFFFFF)) (fun t => t.result == .badOperand && t.dout == bench.dout) = true := by
  decide

/-! Rescaler (section 3). -/

theorem test_rescale_rows :
    ([[], [0, 0, 0], [5, 5, 0], [300, 675, 0, 0], [1, 2], [100, 101, 102], [10, 20, 30, 40], [1, 1364], [1, 1365],
      [1, 2039], [1, 2048], [0, 3000, 1]].map rescale)
      = [⟨[], 0, 0⟩, ⟨[0, 0, 0], 0, 0⟩, ⟨[1, 1, 0], 5, 5⟩, ⟨[1, 2043, 0, 0], 300, 675⟩, ⟨[1, 1025], 1, 2⟩,
         ⟨[1, 683, 1366], 100, 102⟩, ⟨[1, 661, 1322, 1982], 10, 40⟩, ⟨[1, 2046], 1, 1364⟩, ⟨[1, 2047], 1, 1365⟩,
         ⟨[1, 2047], 1, 2039⟩, ⟨[1, 2048], 1, 2048⟩, ⟨[0, 3000, 1], 1, 3000⟩] := by decide
theorem test_unrescale_rows :
    [unrescale [1, 2043, 0, 0] 300 675, unrescale [1, 1025] 1 2, unrescale [1, 1024, 2047] 1 2039, unrescale [2047] 1 2,
     unrescale [2047] 2038 2039, unrescale [2047] 1 1364, unrescale [1, 0, 2, 3] 0 0, unrescale [3839] 65000 65535,
     unrescale [2] 65535 0, unrescale [5, 7] 10 3000]
      = [[300, 675, 0, 0], [1, 2], [1, 1020, 2039], [3], [2040], [1364], [0, 0, 1, 2], [469], [0], [5, 7]] := by decide
theorem test_RESCALE :
    onNext (exec .rescale { benchN 4 with cbuf := holds16 [300, 675, 0, 0] })
      (fun t => t.cbuf.getSeq 0 4 == [1, 2043, 0, 0] && t.resp.min == 300 && t.resp.max == 675) = true := by decide
theorem test_UNRESCALE :
    onNext (exec .unrescale { bench with
        cbuf := holds16 [1, 2043, 0, 0], op := { bench.op with n := 4, min := 300, max := 675 } })
      (fun t => t.cbuf.getSeq 0 4 == [300, 675, 0, 0]) = true := by decide

/-! Filter (section 4). -/

theorem test_filter_lanes :
    ([0, 1, 255, 256, 257, 511, 512, 767, 768, 1023, 1280, 1535, 1792, 2043, 2046, 2047].map
        fun c => (highNibble c, lowByte c))
      = [(0, 0), (1, 1), (1, 255), (2, 255), (2, 254), (2, 0), (3, 0), (3, 255), (4, 255), (4, 0), (6, 255), (6, 0),
         (8, 255), (8, 4), (8, 1), (8, 0)] := by decide
theorem test_unfilter_lanes :
    [unfilterCode 0 255, unfilterCode 1 0, unfilterCode 2 0, unfilterCode 3 128, unfilterCode 8 128, unfilterCode 9 0,
     unfilterCode 12 128, unfilterCode 15 255]
      = [0, 1, 511, 640, 1919, 2048, 2943, 3839] := by decide
/-- FL-1. -/
theorem test_FILTER :
    onNext (exec .filter { benchN 4 with cbuf := holds16 [0, 1, 2043, 0] })
      (fun t => t.hbuf.getSeq 0 2 == [0x10, 0x08] && t.lbuf.getSeq 0 4 == [0, 1, 4, 0]) = true := by decide
/-- FL-3. -/
theorem test_FILTER_badOperand :
    onNext (exec .filter { benchN 2 with cbuf := holds16 [2048, 0] })
      (fun t => t.result == .badOperand && t.hbuf == bench.hbuf && t.lbuf == bench.lbuf) = true := by decide
/-- FL-7. -/
theorem test_UNFILTER :
    onNext (exec .unfilter { benchN 2 with hbuf := holds8 [0xF9], lbuf := holds8 [0x00, 0xFF] })
      (fun t => t.cbuf.getSeq 0 2 == [2048, 3839]) = true := by decide
/-- FL-8. -/
theorem test_UNFILTER_badOperand :
    onNext (exec .unfilter (benchN 5)) (fun t => t.result == .badOperand) = true := by decide

/-! Framer (section 5). -/

/-- F-A1. -/
theorem test_FASM :
    onNext (exec .fasm { bench with
        hbuf := holds8 [0x10, 0x08], lbuf := holds8 [0, 1, 4, 0]
        op := { bench.op with flags := 1, w := 4, h := 1, min := 300, max := 675, hub := 2, hcb := 2, lcb := 4 } })
      (fun t => t.fout.getSeq 0 32 == frameA && t.resp.len == 32) = true := by decide
/-- F-A3. -/
theorem test_FASM_badOperand :
    onNext (exec .fasm { bench with op := { bench.op with hcb := 8388609 } })
      (fun t => t.result == .badOperand) = true := by decide
/-- F-1 (fields that differ from each other). -/
theorem test_FPARSE :
    onNext (exec .fparse (benchFrame frameA 32))
      (fun t => t.result == .success && t.resp == ⟨1, 0, 0, 4, 1, 300, 675, 2, 2, 4, 32, 0⟩) = true := by decide
/-- F-2, F-3, F-5, F-6, F-7, F-8, F-9, F-10. -/
theorem test_parse_errors :
    [parse (frameA.take 25), parse (frameA.take 31), parse (frameA ++ [0]), parse (frameA.set 0 0),
     parse ((frameA.set 0 0).take 20), parse (frameA.set 12 1), parse ((frameA.set 12 1).take 31),
     parse (frameA.set 4 0), parse ((frameA.set 6 1).set 7 0x10)]
      = [.error .fileTruncated, .error .fileTruncated, .error .fileTruncated, .error .wrongFormat, .error .fileTruncated,
         .error .corrupted, .error .corrupted, .error .corrupted, .error .corrupted] := by decide
/-- F-11, F-12. -/
theorem test_parse_ignores :
    (parse (frameA.set 1 0xFD) = parse frameA) ∧ (parse (frameA.set 12 3) ≠ .error .corrupted) := by decide
/-- F-P1, F-P3. -/
theorem test_ISDEPTH :
    (onNext (exec .isdepth (benchFrame frameA 32)) (fun t => t.resp.bool == 1)
      && onNext (exec .isdepth (benchFrame (frameA.set 0 0) 32)) (fun t => t.resp.bool == 0)) = true := by decide
/-- F-P2: 25 bytes. -/
theorem test_ISDEPTH_short :
    onNext (exec .isdepth (benchFrame frameA 25)) (fun t => t.resp.bool == 0 && t.result == .success) = true := by decide
/-- F-P5, F-P4. -/
theorem test_ISKEY :
    (onNext (exec .iskey (benchFrame frameA 26)) (fun t => t.resp.bool == 1)
      && onNext (exec .iskey (benchFrame frameS4b 32)) (fun t => t.resp.bool == 0)) = true := by decide
/-- F-P6: Flags 0x02. -/
theorem test_ISKEY_hevc_only :
    onNext (exec .iskey (benchFrame (frameA.set 1 2) 32)) (fun t => t.resp.bool == 0) = true := by decide

/-! Sequencer (section 6). -/

/-- S-16. -/
theorem test_SRESET :
    onNext (exec .sreset { bench with frameCount := 5, role := .dec, resp := { bench.resp with len := 7 } })
      (fun t => t.frameCount == 0 && t.role == .none && t.result == .success && t.resp.len == 7) = true := by decide
/-- S-4a. -/
theorem test_ENCODE_keyframe_forced :
    onNext (exec .encode (benchImage [0, 500, 1000, 0] 4 1 0))
      (fun t => t.fout.getSeq 0 32 == frameA && t.frameCount == 1 && t.role == .enc
        && t.resp == ⟨1, 0, 0, 4, 1, 300, 675, 2, 2, 4, 32, 0⟩) = true := by decide
/-- S-4b. -/
theorem test_ENCODE_second :
    onNext (exec .encode { benchImage [0, 500, 1000, 0] 4 1 0 with frameCount := 1, role := .enc })
      (fun t => t.fout.getSeq 0 32 == frameS4b && t.resp.key == 0 && t.resp.fn == 1 && t.frameCount == 2) = true := by
  decide
/-- S-17 and program P3: the third frame, a keyframe with FrameNumber 2. -/
theorem test_ENCODE_K :
    onNext (exec .encodeK { benchImage [0, 500, 1000, 0] 4 1 0 with frameCount := 2, role := .enc })
      (fun t => t.fout.getSeq 0 4 == [0xCA, 0x01, 0x02, 0x00] && t.frameCount == 3) = true := by decide
/-- S-11: T = 1 gives Flags 0x03. -/
theorem test_ENCODE_K_hevc :
    onNext (exec .encodeK (benchImage [0, 500, 1000, 0] 4 1 1))
      (fun t => t.fout.getSeq 1 1 == [0x03] && t.resp.hevc == 1) = true := by decide
/-- S-8: N = 2. -/
theorem test_ENCODE_two_samples :
    onNext (exec .encode (benchImage [1000, 0] 2 1 0))
      (fun t => t.fout.getSeq 0 29 ==
        [0xCA, 0x01, 0x00, 0x00, 0x02, 0x00, 0x01, 0x00, 0xA3, 0x02, 0xA3, 0x02, 0x01, 0x00, 0x00, 0x00, 0x01, 0x00, 0x00,
         0x00, 0x02, 0x00, 0x00, 0x00, 0x00, 0x00, 0x01, 0x01, 0x00]) = true := by decide
/-- S-18: FrameNumber 65536 mod 2^16. -/
theorem test_ENCODE_frame_number_wraps :
    onNext (exec .encode { benchImage [0, 500, 1000, 0] 4 1 0 with frameCount := 65536, role := .enc })
      (fun t => t.resp.fn == 0 && t.resp.key == 0 && t.frameCount == 65537) = true := by decide
/-- S-12, S-13: OP_W = 0; N odd. -/
theorem test_ENCODE_badOperand :
    (onNext (exec .encode (benchImage [] 0 1 0)) (fun t => t.result == .badOperand && t.role == .none)
      && onNext (exec .encode (benchImage [] 3 1 0)) (fun t => t.result == .badOperand)) = true := by decide
/-- X-4: ROLE = DEC, even if OP_W = 0. -/
theorem test_ENCODE_K_role :
    onNext (exec .encodeK { benchImage [] 0 1 0 with role := .dec }) (fun t => t.result == .illegalCommand) = true := by
  decide
/-- X-10: a FRAME_CAP of 31 cannot hold the 32-byte frame A. -/
theorem test_ENCODE_overflow :
    onFault (exec .encode { benchImage [0, 500, 1000, 0] 4 1 0 with params := ⟨31, .zero, .identity, .ideal⟩ })
      .frameOverflow = true := by decide
/-- R109's example: frame A on a fresh decoder. -/
theorem test_DECODE :
    onNext (exec .decode (benchFrame frameA 32))
      (fun t => t.dout.getSeq 0 4 == [0, 500, 1000, 0] && t.frameCount == 1 && t.role == .dec
        && t.resp == ⟨1, 0, 0, 4, 1, 300, 675, 2, 2, 4, 32, 0⟩) = true := by decide
/-- S-7: a P-frame first. -/
theorem test_DECODE_missingFrame :
    onNext (exec .decode (benchFrame frameS4b 32))
      (fun t => t.result == .missingFrame && t.frameCount == 0 && t.dout == bench.dout && t.role == .dec) = true := by
  decide
/-- S-9, S-10: HUB 3; HCB = 0 with LCB = 6. -/
theorem test_DECODE_inconsistent :
    (onNext (exec .decode { benchFrame (frameA.set 12 3) 32 with frameCount := 2 }) (fun t => t.result == .corrupted)
      && onNext (exec .decode { benchFrame ((frameA.set 16 0).set 20 6) 32 with frameCount := 2 })
          (fun t => t.result == .corrupted && t.frameCount == 2)) = true := by decide
/-- X-5: OP_FLEN = FRAME_CAP + 1; S-14: ROLE = ENC. -/
theorem test_DECODE_refused :
    (onNext (exec .decode { benchFrame frameA 65 with role := .dec }) (fun t => t.result == .badOperand)
      && onNext (exec .decode { benchFrame frameA 32 with role := .enc }) (fun t => t.result == .illegalCommand)) = true := by
  decide
/-- X-7: MissingFrame precedes the HUB check; X-6: the short check is first. -/
theorem test_DECODE_priority :
    (onNext (exec .decode (benchFrame (frameS4b.set 12 3) 32)) (fun t => t.result == .missingFrame)
      && onNext (exec .decode (benchFrame (frameA.set 0 0) 20)) (fun t => t.result == .fileTruncated)) = true := by decide
/-- S-L2, S-L3, S-L4: planes a lossy codec returns for frame A. -/
theorem test_lossy_planes :
    [imageOf [0x10, 0x08] [0x00, 0x05, 0x00, 0x00] 300 675, imageOf [0x10, 0x08] [0x00, 0x68, 0x04, 0x00] 300 675,
     imageOf [0x10, 0x08] [0x01, 0x04, 0x4D, 0xC8] 300 675]
      = [[0, 501, 1002, 0], [0, 519, 1000, 0], [0, 501, 974, 0]] := by decide

/-! Steps, registers and the host (10_state.md, 70_reset_and_hazards.md). -/

/-- X-1: an illegal word raises IllegalCommand. -/
theorem test_step_illegal_word :
    onNext (step (bench.withFetchWord 8 0x0D)) (fun t => t.result == .illegalCommand && !t.busy) = true := by decide
/-- A command word in the CMD latch runs in the very next step (R19). -/
theorem test_step_runs_command :
    onNext (step (State.withFetchWord { benchN 1 with din := holds16 [1000] } 8 0x01))
      (fun t => t.cbuf.get 0 == 675 && !t.busy) = true := by decide
/-- X-9: the host writes OP_N while BUSY = 1. -/
theorem test_step_hostProtocol :
    onFault (step { bench with busy := true, delay := 1, prog := [.wr 0x00 4] }) .hostProtocol = true := by decide
/-- R19: a write to CMD sets BUSY; OP_W keeps the low 16 bits of a write (R18). -/
theorem test_host_writes :
    (onNext (step { bench with prog := [asmCmd .quant] }) (fun t => t.busy && t.cmd == 0x01)
      && onNext (step { bench with prog := [.wr 0x01 0x12345] }) (fun t => t.op.w == 0x2345)) = true := by decide
/-- RO and reserved registers ignore a write; reserved registers read 0 (R18). -/
theorem test_host_ignored_writes :
    (onNext (step { bench with prog := [.wr 0x20 7, .wr 0x3F 7] }) (fun t => t.frameCount == 0 && t.op == bench.op)
      && onNext (step { bench with prog := [.wr 0x3F 7] }) (fun t => readNumber 0x3F t == 0)) = true := by decide
/-- `st` writes the element and goes on (R55); DIN is an RW buffer (R21). -/
theorem test_host_store :
    onNext (step { bench with prog := [.st .din 0 [9, 8]] })
      (fun t => t.din.get 0 == 9 && t.prog == [.st .din 1 [8]]) = true := by decide
/-- BUSY reads 1 while a command executes (R18, R36). -/
theorem test_host_reads_busy :
    onNext (step { bench with busy := true, delay := 1, prog := [.rd 0x23] }) (fun t => t.seen == [1]) = true := by decide


/-! Witnesses: for every statement of Certificates/Slice0/Obligations.lean with hypotheses, a state and operands that meet
them, at the boundary of each range. -/

/-- The state a step answered. -/
def stateOf (a : Answer) : State :=
  match a with
  | .next t => t
  | _ => bench

/-- A step that answers a next state with the property, as an equation. -/
theorem next_stateOf {a : Answer} {p : State → Bool} (h : onNext a p = true) :
    a = .next (stateOf a) ∧ p (stateOf a) = true := by
  unfold onNext at h
  split at h
  · exact ⟨rfl, h⟩
  · cases h

/-- The bench with a command word in the CMD latch. -/
def benchRun (w : Byte) : State := { bench with busy := true, cmd := w }

/-- The bench with one host statement to run. -/
def benchHost (st : HostStmt) : State := { bench with prog := [st] }

/-- The bench while a command runs and one host move still falls into its BUSY time. -/
def benchBusy (st : HostStmt) : State := { bench with busy := true, delay := 1, prog := [st] }

/-- The 4 × 1 image of vector S-4a, as DIN and operands. -/
def imageA : State := benchImage [0, 500, 1000, 0] 4 1 0

/-- The header of frame A. -/
def headerA : Header := ⟨1, 0, 0, 4, 1, 300, 675, 2, 2, 4⟩

/-- A decoder bench with the frame an encode left in FOUT. -/
def receiver (t : State) : State := { bench with fin := t.fout, op := { bench.op with flen := t.resp.len } }

theorem witness_StepRunsTheLatchedCommand :
    ((benchRun 0x01).faultRec = none ∧ (benchRun 0x01).busy = true ∧ (benchRun 0x01).delay = 0 ∧
      decode (benchRun 0x01).cmd = .ok .quant) ∧
    ({ benchRun 0x01 with delay := 3 }.faultRec = none ∧ { benchRun 0x01 with delay := 3 }.busy = true ∧
      { benchRun 0x01 with delay := 3 }.prog = [] ∧ decode { benchRun 0x01 with delay := 3 }.cmd = .ok .quant) ∧
    decode (BitVec.ofNat 8 0x1B) = .ok .encodeK := by decide
theorem witness_IllegalWordChangesOnlyResult :
    ((benchRun 0x0D).faultRec = none ∧ (benchRun 0x0D).busy = true ∧ (benchRun 0x0D).delay = 0 ∧
      decode (benchRun 0x0D).cmd = .error .reservedOpcode) ∧
    decode 0x0F = .error .reservedOpcode ∧ decode 0x1A = .error .keyWithoutEncode ∧ decode 0x2B = .error .reservedBits ∧
    decode 0xFF ≠ .ok .sreset := by decide
theorem witness_DecodeInvertsEncode : decode 0x1B = .ok .encodeK ∧ decode 0x00 = .ok .sreset := by decide
theorem bench_inv : (benchRun 0x01).Inv :=
  ⟨⟨by decide, by decide, by decide, by decide, by decide, by decide, by decide, by decide, by decide⟩, by decide, rfl⟩
theorem witness_StepKeepsTheMachineInvariant : ∃ s t, s.Inv ∧ step s = .next t ∧ t ≠ s :=
  ⟨benchRun 0x01, { benchRun 0x01 with busy := false }, bench_inv, rfl, by decide⟩
theorem witness_QuantizerBands :
    (200 : Half).toNat ≤ 200 ∧ (200 < (201 : Half).toNat ∧ (749 : Half).toNat < 750) ∧
    (750 ≤ (750 : Half).toNat ∧ (1499 : Half).toNat < 1500) ∧ (1500 ≤ (1500 : Half).toNat ∧ (2999 : Half).toNat < 3000) ∧
    (3000 ≤ (3000 : Half).toNat ∧ (5999 : Half).toNat < 6000) ∧
    (6000 ≤ (6000 : Half).toNat ∧ (11839 : Half).toNat < 11840) ∧ 11840 ≤ (11840 : Half).toNat := by decide
theorem witness_DequantIsTheSmallestPreimage :
    (1 ≤ (1 : Half).toNat ∧ (1 : Half).toNat ≤ 2039 ∧ quant 201 = 1) ∧
    (1 ≤ (2039 : Half).toNat ∧ (2039 : Half).toNat ≤ 2039 ∧ quant 11839 = 2039) := by decide
theorem witness_QuantizerProperties :
    (201 ≤ (201 : Half).toNat ∧ (201 : Half).toNat < (11839 : Half).toNat ∧ (11839 : Half).toNat ≤ 11839) ∧
    (1 ≤ (2039 : Half).toNat ∧ (2039 : Half).toNat ≤ 2039) := by decide
/-- For QUANT, DEQUANT, RESCALE and UNRESCALE: OP_N at N_MAX and one beyond; for UNFILTER too, with an odd OP_N. -/
theorem witness_UnitCounts :
    ((benchN 16777216).op.n.toNat ≤ nMax ∧ (benchN 16777216).op.n.toNat % 2 = 0) ∧
    nMax < (benchN 16777217).op.n.toNat ∧ (benchN 5).op.n.toNat % 2 = 1 := by decide
theorem witness_RescaleFollowsItsSteps :
    (∀ v ∈ ([0, 0] : List Half), v = 0) ∧
    ((300 : Half) ∈ ([300, 675, 0] : List Half) ∧ (675 : Half) ∈ ([300, 675, 0] : List Half) ∧
      (∀ v ∈ ([300, 675, 0] : List Half), v ≠ 0 → (300 : Half).toNat ≤ v.toNat ∧ v.toNat ≤ (675 : Half).toNat)) ∧
    (675 : Half).toNat - (300 : Half).toNat + 1 < 2048 := by simp
theorem witness_RescaleOutputRange :
    (∀ v ∈ ([0, 1, 1365] : List Half), v ≠ 0 → (1 : Half).toNat ≤ v.toNat ∧ v.toNat ≤ (1365 : Half).toNat) ∧
    2 ≤ (1365 : Half).toNat - (1 : Half).toNat + 1 ∧ (1365 : Half).toNat - (1 : Half).toNat + 1 ≤ 2047 := by simp
theorem witness_UnrescaleUndoesRescale :
    ((1 : Half).toNat < (1023 : Half).toNat ∧ (1023 : Half).toNat - (1 : Half).toNat + 1 ≤ 2047) ∧
    ((1 : Half).toNat < (2047 : Half).toNat ∧ (2047 : Half).toNat - (1 : Half).toNat + 1 ≤ 2047 ∧
      (2047 : Half).toNat < 65535) := by decide
theorem witness_LowByteFoldsOnBitEight :
    0 < ([5] : List Half).length ∧ ((255 : Half) ≠ 0 ∧ (255 : Half).getLsbD 8 = false) ∧
    ((256 : Half) ≠ 0 ∧ (256 : Half).getLsbD 8 = true) := by decide
theorem witness_HighNibbleReservesTheSentinel :
    (2047 : Half).toNat ≤ 2047 ∧ (2047 : Half) ≠ 0 ∧ (0 : Half).toNat ≤ 2047 := by decide
theorem witness_UnfilterLaneFormula :
    ([0x00, 0xFF] : List Byte).length = 2 * ([0x22] : List Byte).length ∧ 1 < ([0x00, 0xFF] : List Byte).length ∧
    1 ≤ (1 : BitVec 4).toNat := by decide
theorem witness_FilterRoundTripAndConfinement :
    (([0, 2047] : List Half).length % 2 = 0 ∧ ∀ v ∈ ([0, 2047] : List Half), v.toNat ≤ 2047) ∧
    ((1 : BitVec 4) ≠ 0 ∧ ¬ ((1 : BitVec 4) = 1 ∧ ((1 : Byte) = 0 ∨ (2 : Byte) = 0))) := by simp
theorem witness_FilterWritesBothStreams :
    (let s : State := { benchN 2 with cbuf := holds16 [0, 2047] };
      s.op.n.toNat ≤ nMax ∧ s.op.n.toNat % 2 = 0 ∧ ∀ i, i < s.op.n.toNat → (s.cbuf.get i).toNat ≤ 2047) ∧
    (let s : State := { benchN 2 with cbuf := holds16 [2048, 0] }; 0 < s.op.n.toNat ∧ 2047 < (s.cbuf.get 0).toNat) := by
  decide
theorem witness_ParseRecoversTheAssembledFrame :
    (1 ≤ (1 : Half).toNat ∧ (4096 : Half).toNat ≤ 4096 ∧ 2 ≤ (2 : Word).toNat ∧ ([] : List Byte).length < 2 ^ 32) := by
  decide
/-- FASM: the longest frame FRAME_CAP = 64 takes, and each capacity breached by one. -/
theorem witness_FasmWritesTheFrame :
    (let s : State := { bench with op := { bench.op with hcb := 38 } };
      s.op.hcb.toNat ≤ nMax / 2 ∧ s.op.lcb.toNat ≤ nMax + nMax / 2 ∧
      26 + s.op.hcb.toNat + s.op.lcb.toNat ≤ s.params.frameCap) ∧
    nMax / 2 < (8388609 : Word).toNat ∧ nMax + nMax / 2 < (25165825 : Word).toNat ∧
    (let s : State := { bench with op := { bench.op with lcb := 39 } };
      s.params.frameCap < 26 + s.op.hcb.toNat + s.op.lcb.toNat) := by decide
/-- FPARSE, ISDEPTH and ISKEY: a frame that parses, one that does not, OP_FLEN at FRAME_CAP and one beyond. -/
theorem witness_FrameLengths :
    ((benchFrame frameA 32).op.flen.toNat ≤ (benchFrame frameA 32).params.frameCap ∧
      parse ((benchFrame frameA 32).fin.getSeq 0 (benchFrame frameA 32).op.flen.toNat) = .header headerA) ∧
    parse ((benchFrame frameA 31).fin.getSeq 0 (benchFrame frameA 31).op.flen.toNat) = .error .fileTruncated ∧
    (benchFrame frameA 64).op.flen.toNat ≤ (benchFrame frameA 64).params.frameCap ∧
    (benchFrame frameA 65).params.frameCap < (benchFrame frameA 65).op.flen.toNat := by decide
/-- ENCODE's premises, general and with the stub coders, at a FRAME_CAP the frame just fits. -/
theorem witness_Encode :
    let s : State := { imageA with params := ⟨32, .zero, .identity, .ideal⟩ }
    s.params.entropyCoder = .identity ∧ s.params.videoCoder = .ideal ∧ s.params.Legal ∧ s.role ≠ .dec ∧
      1 ≤ s.op.w.toNat ∧ s.op.w.toNat ≤ 4096 ∧ 1 ≤ s.op.h.toNat ∧ s.op.h.toNat ≤ 4096 ∧
      (s.op.w.toNat * s.op.h.toNat) % 2 = 0 ∧ 4 ≤ s.op.w.toNat * s.op.h.toNat ∧
      26 + s.op.w.toNat * s.op.h.toNat / 2 + s.op.w.toNat * s.op.h.toNat ≤ s.params.frameCap ∧
      (let r := rescale ((s.din.getSeq 0 (s.op.w.toNat * s.op.h.toNat)).map quant);
        26 + (ecCompress s.params (filterHigh r.codes)).length + (filterLow r.codes).length ≤ s.params.frameCap) := by decide
theorem witness_EncodeRefusals :
    (benchImage [] 4097 1 0).role ≠ .dec ∧ 4096 < (benchImage [] 4097 1 0).op.w.toNat ∧
    (benchImage [] 0 1 0).op.w.toNat < 1 ∧ 4096 < (benchImage [] 1 4097 0).op.h.toNat ∧
    (benchImage [] 1 0 0).op.h.toNat < 1 ∧ ((benchImage [] 3 1 0).op.w.toNat * (benchImage [] 3 1 0).op.h.toNat) % 2 = 1 ∧
    { bench with role := .dec }.role = .dec := by decide
theorem witness_EncodeFaultsExactlyOnOverflow :
    let s : State := { imageA with params := ⟨31, .zero, .identity, .ideal⟩ }
    let r := rescale ((s.din.getSeq 0 (s.op.w.toNat * s.op.h.toNat)).map quant)
    s.params.videoCoder = .ideal ∧
      s.params.frameCap < 26 + (ecCompress s.params (filterHigh r.codes)).length + (filterLow r.codes).length := by decide
/-- A successful ENCODE with a legal FRAME_CAP: for the statements about emitted frames, transitions and results. -/
theorem witness_EncodeSucceeds : ∃ s t, s.params.Legal ∧ exec .encode s = .next t ∧ t.result = .success :=
  have h := next_stateOf (a := exec .encode imageA) (p := fun t => decide (t.result = .success)) (by decide)
  ⟨imageA, _, by decide, h.1, of_decide_eq_true h.2⟩
theorem witness_EncodeKSucceeds : ∃ s t, s.params.Legal ∧ exec .encodeK s = .next t ∧ t.result = .success :=
  have h := next_stateOf (a := exec .encodeK imageA) (p := fun t => decide (t.result = .success)) (by decide)
  ⟨imageA, _, by decide, h.1, of_decide_eq_true h.2⟩
/-- DECODE's premises, general and with the stub coders. -/
theorem witness_Decode :
    let s := benchFrame frameA 32
    let f := s.fin.getSeq 0 s.op.flen.toNat
    s.params.entropyCoder = .identity ∧ s.params.videoCoder = .ideal ∧
    s.role ≠ .enc ∧ s.op.flen.toNat ≤ s.params.frameCap ∧ parse f = .header headerA ∧ headerA.key = 1 ∧
    (headerA.w.toNat * headerA.h.toNat) % 2 = 0 ∧ headerA.hub.toNat = headerA.w.toNat * headerA.h.toNat / 2 ∧
    headerA.hcb.toNat = headerA.w.toNat * headerA.h.toNat / 2 ∧ headerA.lcb.toNat = headerA.w.toNat * headerA.h.toNat ∧
    headerA.hcb ≠ 0 ∧ headerA.lcb ≠ 0 ∧
    ecDecompress s.params (highSection f headerA) headerA.hub.toNat = some [0x10, 0x08] ∧
    lowSection f headerA = [0, 1, 4, 0] ∧ ([0, 1, 4, 0] : List Byte).length = headerA.w.toNat * headerA.h.toNat := by decide
/-- DECODE's errors: a section the entropy coder fails on, and one the video codec fails on. -/
theorem witness_DecodeErrorsInOrder :
    (let f := (frameA.set 16 3).set 20 3;
      let r : Header := { headerA with hcb := 3, lcb := 3 };
      parse f = .header r ∧ ecDecompress bench.params (highSection f r) r.hub.toNat = none) ∧
    (let f := (frameA.take 31).set 20 3;
      let r : Header := { headerA with lcb := 3 };
      parse f = .header r ∧ ecDecompress bench.params (highSection f r) r.hub.toNat = some [0x10, 0x08] ∧
      bench.params.videoCoder = .ideal ∧ (lowSection f r).length ≠ 4) ∧
    (parse frameS4b = .header { headerA with key := 0, fn := 1 } ∧ bench.frameCount = 0) ∧
    (let f := frameA.set 12 3;
      parse f = .header { headerA with hub := 3 } ∧ (3 : Word).toNat ≠ 4 * 1 / 2) := by decide
theorem witness_SequencerTransitions :
    onNext (exec .sreset bench) (fun _ => true) = true ∧
    onNext (exec .encode { imageA with role := .dec }) (fun t => t.result == .illegalCommand) = true ∧
    onNext (exec .decode (benchFrame frameA 32)) (fun t => t.result == .success) = true ∧
    onNext (exec .decode (benchFrame frameA 31)) (fun t => t.result == .fileTruncated) = true ∧
    onNext (exec .decode { benchFrame frameA 32 with role := .enc }) (fun t => t.result == .illegalCommand) = true ∧
    onNext (exec .decode (benchFrame frameA 65)) (fun t => t.result == .badOperand) = true ∧
    (isUnitCommand .isdepth = true ∧ onNext (exec .isdepth (benchFrame frameA 32)) (fun _ => true) = true) ∧
    (decode (benchRun 0x0D).cmd = .error .reservedOpcode ∧ onNext (runCommand (benchRun 0x0D)) (fun _ => true) = true) := by
  decide
/-- Every unit command and every session command answers a next state somewhere: for the statements about all commands. -/
theorem witness_EveryCommandAnswers :
    ([.sreset, .quant, .dequant, .rescale, .unrescale, .filter, .unfilter, .fasm, .fparse, .isdepth, .iskey, .encode,
      .encodeK, .decode] : List Instr).all (fun i => onNext (exec i bench) (fun _ => true)) = true := by decide
/-- An error that moves ROLE. -/
theorem witness_ErrorsLeaveOnlyPartialEffects :
    onNext (exec .decode (benchFrame frameA 31)) (fun t => t.result != .success && t.role != bench.role) = true := by decide
theorem witness_EntropyCoderLaws :
    ecDecompress bench.params [1, 2] 2 = some [1, 2] ∧ ecCompress bench.params [1, 2] ≠ [] := by decide
theorem witness_TwoSampleFramesNeverParse :
    (benchImage [1000, 0] 2 1 0).params.Legal ∧
    (benchImage [1000, 0] 2 1 0).op.w.toNat * (benchImage [1000, 0] 2 1 0).op.h.toNat = 2 ∧
    onNext (exec .encode (benchImage [1000, 0] 2 1 0)) (fun t => t.result == .success) = true := by decide
/-- Pixel 0 of image A is no reading; both commands succeed on it and the receiver holds the emitted frame. -/
theorem witness_ZeroPreservation : ∃ t v, exec .encode imageA = .next t ∧ t.result = .success ∧
    (receiver t).params.entropyCoder = imageA.params.entropyCoder ∧ (receiver t).op.flen = t.resp.len ∧
    (receiver t).fin.getSeq 0 (receiver t).op.flen.toNat = t.fout.getSeq 0 t.resp.len.toNat ∧
    exec .decode (receiver t) = .next v ∧ v.result = .success ∧
    0 < imageA.op.w.toNat * imageA.op.h.toNat ∧ quant (imageA.din.get 0) = 0 :=
  have h := next_stateOf (a := exec .encode imageA) (p := fun t => decide (t.result = .success)) (by decide)
  have g := next_stateOf (a := exec .decode (receiver (stateOf (exec .encode imageA))))
    (p := fun t => decide (t.result = .success)) (by decide)
  ⟨_, _, h.1, of_decide_eq_true h.2, by decide, rfl, rfl, g.1, of_decide_eq_true g.2, by decide, by decide⟩
/-- With `witness_Encode`: the receiver of image A's frame meets the premises on the decoder session. -/
theorem witness_StubCodersRoundTrip :
    let t := stateOf (exec .encode imageA)
    (receiver t).params = imageA.params ∧ (receiver t).role ≠ .enc ∧ imageA.frameCount = 0 ∧
    (receiver t).op.flen = t.resp.len ∧
    (receiver t).fin.getSeq 0 (receiver t).op.flen.toNat = t.fout.getSeq 0 t.resp.len.toNat := by decide
/-- VC-IDEAL has VC-KEY, with every context ready, a non-keyframe's bits N bytes long, and every non-keyframe encode a
subsequent one. -/
theorem bench_vcKey : VcKey bench.params (fun _ => True) (fun _ => True) (fun job => job.bits.length = job.width * job.height)
    (fun _ => True) where
  afterEncode _ _ _ _ _ _ := trivial
  afterDecode _ _ _ _ _ _ _ := trivial
  acceptsEncode draw ctx job hjob _ _ _ := by
    obtain ⟨⟨hw, -⟩, ⟨hh, -⟩, -, hlen⟩ := hjob
    have hn := Nat.mul_le_mul hw hh
    refine ⟨fun h => ?_, trivial⟩
    have := congrArg List.length h
    simp only [encodeAnswer, bench, List.length_take, List.length_nil] at this
    omega
  acceptsDecode draw ctx job hbits _ := ⟨⟨job.bits, by simp [decodeAnswer, bench, hbits], hbits⟩, trivial⟩
/-- Frame A, then the P-frame of vector S-4b, in one decoder session. -/
theorem witness_NonKeyframeDecodesAfterAKeyframe : ∃ t, exec .decode (benchFrame frameA 32) = .next t ∧ t.result = .success ∧
    (let u : State := { benchFrame frameS4b 32 with vctx := t.vctx, role := .dec, frameCount := t.frameCount };
      let g := u.fin.getSeq 0 u.op.flen.toNat;
      let q : Header := { headerA with key := 0, fn := 1 };
      u.params = (benchFrame frameA 32).params ∧ u.vctx = t.vctx ∧ u.role ≠ .enc ∧ u.frameCount ≠ 0 ∧
      u.op.flen.toNat ≤ u.params.frameCap ∧ parse g = .header q ∧ q.hub.toNat = q.w.toNat * q.h.toNat / 2 ∧
      ecDecompress u.params (highSection g q) q.hub.toNat = some [0x10, 0x08] ∧
      (lowSection g q).length = q.w.toNat * q.h.toNat) :=
  have h := next_stateOf (a := exec .decode (benchFrame frameA 32))
    (p := fun t => decide (t.result = .success) && decide (t.frameCount ≠ 0)) (by decide)
  have hc := (Bool.and_eq_true _ _).mp h.2
  ⟨_, h.1, of_decide_eq_true hc.1, rfl, rfl, by decide, of_decide_eq_true hc.2, by decide, by decide, by decide, by decide,
    by decide⟩
theorem witness_RegisterMap :
    (regOfNumber 0x0F = some .vp3 ∧ regWritable .vp3 = true) ∧
    (regOfNumber 0x10 = some .result ∧ regWritable .result = false ∧ Reg.result ≠ .cmd) ∧
    (regOfNumber 0x1D = none ∧ regOfNumber 0x1F = none ∧ regOfNumber 0x24 = none ∧ regOfNumber 0x2F = none ∧
      regOfNumber 0x31 = none ∧ regOfNumber 0x3F = none) ∧ (0x01 : BitVec 6) ≠ 0x00 := by decide
/-- The host's moves while BUSY = 0: premises of CmdWriteIssuesACommand, BlockResetRestoresTheResetState and
HostReadsHaveNoSideEffects. -/
theorem witness_HostMoves :
    (let s := benchHost (.wr 0x30 0x0B); s.faultRec = none ∧ s.busy = false ∧ s.prog = .wr 0x30 0x0B :: []) ∧
    (let s := benchHost .blockReset; s.faultRec = none ∧ s.busy = false ∧ s.prog = .blockReset :: []) ∧
    (let s := benchHost (.rd 0x22); s.faultRec = none ∧ s.busy = false ∧ s.prog = .rd 0x22 :: []) ∧
    (let s := benchHost (.ld .fin 63 64);
      s.busy = false ∧ s.prog = .ld .fin 63 64 :: [] ∧ 63 < 64 ∧ hostVisible .fin = true ∧
      63 < capacityOf s.params.frameCap .fin) := by decide
/-- A host move while BUSY = 1, and the wait that reads BUSY. -/
theorem witness_HostMovesWhileBusy :
    (let s := benchBusy (.wr 0x00 4); s.faultRec = none ∧ s.busy = true ∧ s.delay ≠ 0 ∧ s.prog = .wr 0x00 4 :: []) ∧
    (benchBusy (.st .din 0 [1])).prog = .st .din 0 (1 :: []) :: [] ∧ (benchBusy .blockReset).prog = .blockReset :: [] ∧
    (benchBusy (.rd 0x23)).prog = .rd 0x23 :: [] ∧ (benchBusy .wait).prog = .wait :: [] ∧
    ((benchBusy (.rd 0x22)).prog = .rd 0x22 :: [] ∧ (0x22 : BitVec 6) ≠ 0x23) ∧
    ((benchBusy (.ld .fin 63 64)).prog = .ld .fin 63 64 :: [] ∧ 63 < 64 ∧ hostVisible .fin = true ∧
      63 < capacityOf bench.params.frameCap .fin) := by decide
/-- The last element of DIN and the largest u16 are within R152's table; one beyond each is outside it. -/
theorem witness_HostElements :
    (let s := benchHost (.st .din 16777215 [65535]);
      s.prog = .st .din 16777215 (65535 :: []) :: [] ∧ hostVisible .din = true ∧
      16777215 < capacityOf s.params.frameCap .din ∧ (65535 : Word).toNat < 2 ^ elementWidth .din) ∧
    capacityOf bench.params.frameCap .din ≤ 16777216 ∧ 2 ^ elementWidth .din ≤ (65536 : Word).toNat ∧
    hostVisible .hs = false ∧ hostVisible .ls = false := by decide
theorem witness_ModelFaultIsSticky : { bench with faultRec := some .frameOverflow }.faultRec = some .frameOverflow := by decide
theorem witness_IdleBlockKeepsItsState : bench.faultRec = none ∧ bench.busy = false ∧ bench.prog = [] := by decide

end Sys2Proof.Machine
end

section
/-! SUPPORT. The decoder's rules (R52 to R54): a word's fields as numbers, which fields stand for no command, and what the
core does with a word that has none. -/

namespace Sys2Proof

/-- R54: OPC = w[3:0]. -/
@[simp] theorem commandFields_opc_toNat (w : Byte) : (commandFields w).opc.toNat = w.toNat % 16 := by
  simp [commandFields]

/-- R54: K = w[4]. -/
@[simp] theorem commandFields_k_eq_true (w : Byte) : (commandFields w).k = true ↔ w.toNat / 16 % 2 = 1 := by
  simp [commandFields, BitVec.getLsbD, Nat.testBit_eq_decide_div_mod_eq]

/-- R54: RSV = w[7:5]. -/
@[simp] theorem commandFields_rsv_toNat (w : Byte) : (commandFields w).rsv.toNat = w.toNat / 32 := by
  simp only [commandFields, BitVec.extractLsb'_toNat, Nat.shiftRight_eq_div_pow]
  omega

/-- R52: exactly the reserved opcodes have no row in the opcode map. -/
theorem opcodeMap_eq_none_iff (opc : BitVec 4) : opcodeMap opc = none ↔ 0xD ≤ opc.toNat := by
  revert opc; decide

/-- R52: ENCODE has opcode 0xB. -/
theorem opcodeMap_eq_encode_iff (opc : BitVec 4) : opcodeMap opc = some .encode ↔ opc.toNat = 0xB := by
  revert opc; decide

/-- R53's three conditions, on the opcode map: no row, a reserved bit, or K on a row other than ENCODE's. -/
theorem decodeFields_error_iff (f : CommandFields) :
    (∃ e, decodeFields f = .error e) ↔
      opcodeMap f.opc = none ∨ f.rsv ≠ 0 ∨ (f.k = true ∧ opcodeMap f.opc ≠ some .encode) := by
  unfold decodeFields
  split
  · next hrsv => exact iff_of_true ⟨_, rfl⟩ (.inr (.inl hrsv))
  · next hrsv =>
    split
    · next hrow => exact iff_of_true ⟨_, rfl⟩ (.inl hrow)
    · next hrow hk => simp [hrow, hk, not_ne_iff.mp hrsv]
    · next hrow hk => simp [hrow, hk, not_ne_iff.mp hrsv]
    · next hne hrow hk =>
      exact iff_of_true ⟨_, rfl⟩ (.inr (.inr ⟨hk, fun h => hne (Option.some.inj (hrow.symm.trans h))⟩))

/-- R53 on the word. -/
theorem decode_error_iff (w : Byte) :
    (∃ e, decode w = .error e) ↔
      0xD ≤ w.toNat % 16 ∨ w.toNat / 32 ≠ 0 ∨ (w.toNat / 16 % 2 = 1 ∧ w.toNat % 16 ≠ 0xB) := by
  have hrsv : (commandFields w).rsv = 0 ↔ w.toNat / 32 = 0 := by
    rw [← commandFields_rsv_toNat, ← BitVec.toNat_inj]; rfl
  rw [decode, decodeFields_error_iff, opcodeMap_eq_none_iff, Ne, Ne, opcodeMap_eq_encode_iff, hrsv,
    commandFields_opc_toNat, commandFields_k_eq_true]

namespace Machine

/-- R19, R53: the core raises IllegalCommand for a word that decodes to no command. -/
theorem runCommand_of_decode_error {s : State} (h : ∃ e, decode s.cmd = .error e) :
    runCommand s = raise .illegalCommand s := by
  obtain ⟨e, he⟩ := h
  simp only [runCommand, he]

/-- Settles O2: R53's conditions on the word decide `decode`, and `raise` writes RESULT and BUSY alone. -/
theorem illegalWordChangesOnlyResult : Obligations.IllegalWordChangesOnlyResult :=
  ⟨decode_error_iff, fun _ h => runCommand_of_decode_error h⟩

end Machine

end Sys2Proof
end

section
/-! SUPPORT. The low stream (R61): where a code's low byte stands, and the fold on bit 8, which is R79's fold on odd
raw_high. -/

namespace Sys2Proof.Machine

/-- Low byte i belongs to sample i (R61). -/
theorem getElem?_filterLow (codes : List Half) (i : Nat) (hi : i < codes.length) :
    (filterLow codes)[i]? = some (lowByte (codes.getD i 0)) := by
  simp [filterLow, hi]

/-- raw_high is odd exactly when bit 8 of the code is set (R61). -/
theorem rawHigh_odd_iff (c : Half) : c.toNat / 256 % 2 = 1 ↔ c.getLsbD 8 = true := by
  simp [BitVec.getLsbD, Nat.testBit_eq_decide_div_mod_eq]

@[simp] theorem lowByte_zero : lowByte 0 = 0 := rfl

/-- R61 in terms of bit 8. -/
theorem lowByte_of_ne_zero {c : Half} (h : c ≠ 0) :
    lowByte c = if c.getLsbD 8 = true then 255 - c.setWidth 8 else c.setWidth 8 := by
  simp only [lowByte, if_neg h, fold, rawHigh_odd_iff]

/-- The fold complements a byte: 255 − b does not borrow. -/
theorem toNat_255_sub (b : Byte) : (255 - b).toNat = 255 - b.toNat := by
  bv_omega

/-- Settles O19: the position of a low byte, then R61's three cases. -/
theorem lowByteFoldsOnBitEight : Obligations.LowByteFoldsOnBitEight := by
  refine ⟨getElem?_filterLow, fun c => ⟨fun h => h ▸ lowByte_zero, fun h h8 => ?clear, fun h h8 => ?set⟩⟩
  case clear => rw [lowByte_of_ne_zero h, h8, if_neg Bool.false_ne_true, BitVec.toNat_setWidth]
  case set => rw [lowByte_of_ne_zero h, if_pos h8, toNat_255_sub, BitVec.toNat_setWidth]

end Sys2Proof.Machine
end

section
/-! SUPPORT. The quantizer's tables (R64, R65) on numbers: the band a depth or a code lies in, once for each function, and
what follows when the two are put one after the other (R66). -/

namespace Sys2Proof.Machine

/-- R64: a depth lies in exactly one band, and its code is the value of that band. -/
theorem quantNat_cases (d : Nat) :
    (d ≤ 200 ∧ quantNat d = 0) ∨
    (200 < d ∧ d < 750 ∧ quantNat d = d - 200) ∨
    (750 ≤ d ∧ d < 1500 ∧ quantNat d = 550 + (d - 750) / 2) ∨
    (1500 ≤ d ∧ d < 3000 ∧ quantNat d = 925 + (d - 1500) / 4) ∨
    (3000 ≤ d ∧ d < 6000 ∧ quantNat d = 1300 + (d - 3000) / 8) ∨
    (6000 ≤ d ∧ d < 11840 ∧ quantNat d = 1675 + (d - 6000) / 16) ∨
    (11840 ≤ d ∧ quantNat d = 0) := by
  unfold quantNat
  split_ifs <;> omega

/-- R65: a code lies in exactly one band, and its depth is the value of that band. -/
theorem dequantNat_cases (q : Nat) :
    ((q = 0 ∨ 2040 ≤ q) ∧ dequantNat q = 0) ∨
    (0 < q ∧ q < 550 ∧ dequantNat q = q + 200) ∨
    (550 ≤ q ∧ q < 925 ∧ dequantNat q = 750 + (q - 550) * 2) ∨
    (925 ≤ q ∧ q < 1300 ∧ dequantNat q = 1500 + (q - 925) * 4) ∨
    (1300 ≤ q ∧ q < 1675 ∧ dequantNat q = 3000 + (q - 1300) * 8) ∨
    (1675 ≤ q ∧ q < 2040 ∧ dequantNat q = 6000 + (q - 1675) * 16) := by
  unfold dequantNat
  split_ifs <;> omega

/-- R65's table with its two zero rows first. -/
theorem dequantNat_eq (q : Nat) :
    dequantNat q =
      if q = 0 ∨ 2040 ≤ q then 0
      else if q < 550 then q + 200
      else if q < 925 then 750 + (q - 550) * 2
      else if q < 1300 then 1500 + (q - 925) * 4
      else if q < 1675 then 3000 + (q - 1300) * 8
      else 6000 + (q - 1675) * 16 := by
  have := dequantNat_cases q
  split_ifs <;> omega

/-- R66's step(d): how many depths share a code in the band of d. -/
def depthStep (d : Nat) : Nat :=
  if d < 750 then 1 else if d < 1500 then 2 else if d < 3000 then 4 else if d < 6000 then 8 else 16

theorem depthStep_cases (d : Nat) :
    (d < 750 ∧ depthStep d = 1) ∨ (750 ≤ d ∧ d < 1500 ∧ depthStep d = 2) ∨ (1500 ≤ d ∧ d < 3000 ∧ depthStep d = 4) ∨
    (3000 ≤ d ∧ d < 6000 ∧ depthStep d = 8) ∨ (6000 ≤ d ∧ depthStep d = 16) := by
  unfold depthStep
  split_ifs <;> omega

/-- R66: codes fit in 11 bits. -/
theorem quantNat_lt (d : Nat) : quantNat d < 2040 := by
  have := quantNat_cases d
  omega

/-- R65: the largest decoded depth is that of code 2039. -/
theorem dequantNat_le (q : Nat) : dequantNat q ≤ 11824 := by
  have := dequantNat_cases q
  omega

/-- R66: the depths that become the sentinel. -/
theorem quantNat_eq_zero_iff (d : Nat) : quantNat d = 0 ↔ d ≤ 200 ∨ 11840 ≤ d := by
  have := quantNat_cases d
  omega

/-- R66: the depths that keep a reading. -/
theorem quantNat_pos_iff (d : Nat) : 0 < quantNat d ↔ 200 < d ∧ d < 11840 := by
  rw [Nat.pos_iff_ne_zero, Ne, quantNat_eq_zero_iff]
  omega

/-- R66: below 11840 the code never falls as the depth rises. -/
theorem quantNat_mono {d e : Nat} (hde : d ≤ e) (he : e < 11840) : quantNat d ≤ quantNat e := by
  have := quantNat_cases e
  rcases quantNat_cases d with h | h | h | h | h | h | h <;> omega

/-- R65: decoding a code gives a depth of that code. -/
theorem quantNat_dequantNat {q : Nat} (hq : q < 2040) : quantNat (dequantNat q) = q := by
  have := quantNat_cases (dequantNat q)
  rcases dequantNat_cases q with h | h | h | h | h | h <;> omega

/-- R66: decoding a depth's code gives the first depth of the run of `depthStep d` depths that share the code. -/
theorem dequantNat_quantNat {d : Nat} (hlo : 200 < d) (hhi : d < 11840) :
    dequantNat (quantNat d) ≤ d ∧ d < dequantNat (quantNat d) + depthStep d := by
  have := dequantNat_cases (quantNat d)
  have := depthStep_cases d
  rcases quantNat_cases d with h | h | h | h | h | h | h <;> omega

@[simp] theorem toNat_quant (d : Half) : (quant d).toNat = quantNat d.toNat :=
  (BitVec.toNat_ofNat _ _).trans (Nat.mod_eq_of_lt ((quantNat_lt _).trans (by decide)))

@[simp] theorem toNat_dequant (q : Half) : (dequant q).toNat = dequantNat q.toNat :=
  (BitVec.toNat_ofNat _ _).trans (Nat.mod_eq_of_lt ((dequantNat_le _).trans_lt (by decide)))

/-- A depth has a code when the table on numbers gives the code's number. -/
theorem quant_eq_iff (d q : Half) : quant d = q ↔ quantNat d.toNat = q.toNat := by
  rw [← BitVec.toNat_inj, toNat_quant]

theorem quant_eq_zero_iff (d : Half) : quant d = 0 ↔ quantNat d.toNat = 0 := quant_eq_iff d 0

/-- Settles O9: the band of the depth, then R64's value and range in it. -/
theorem quantizerBands : Obligations.QuantizerBands := by
  intro d
  have h := quantNat_cases d.toNat
  simp only [quant_eq_zero_iff, toNat_quant]
  omega

/-- Settles O10: R65's table; a depth of code q is at least what its code decodes to. -/
theorem dequantIsTheSmallestPreimage : Obligations.DequantIsTheSmallestPreimage := by
  refine ⟨fun q => ?table, fun q hlo hhi => ⟨?preimage, fun d hd => ?smallest⟩, fun q => ?bound⟩
  case table =>
    rw [dequant, dequantNat_eq]
    simp only [apply_ite (BitVec.ofNat 16)]
    rfl
  case preimage =>
    rw [quant_eq_iff, toNat_dequant, quantNat_dequantNat (Nat.lt_succ_of_le hhi)]
  case smallest =>
    rw [quant_eq_iff] at hd
    obtain ⟨h1, h2⟩ := (quantNat_pos_iff d.toNat).1 (hd ▸ hlo)
    rw [toNat_dequant, ← hd]
    exact (dequantNat_quantNat h1 h2).1
  case bound => exact (toNat_dequant q).trans_le (dequantNat_le _)

/-- Settles O11: R66's five properties, each from its law of the tables on numbers. -/
theorem quantizerProperties : Obligations.QuantizerProperties := by
  refine ⟨fun d => ?range, fun d e _ hde he => ?mono, fun q hlo hhi => ?coverage, fun d hlo hhi => ?error, fun d => ?zero⟩
  case range =>
    rw [toNat_quant]
    exact Nat.le_of_lt_succ (quantNat_lt _)
  case mono =>
    rw [toNat_quant, toNat_quant]
    exact quantNat_mono hde.le (Nat.lt_succ_of_le he)
  case coverage =>
    have hq := quantNat_dequantNat (Nat.lt_succ_of_le hhi)
    obtain ⟨h1, h2⟩ := (quantNat_pos_iff _).1 (hq.symm ▸ hlo)
    refine ⟨dequant q, ?_, ?_, ?_⟩
    · rwa [toNat_dequant]
    · rw [toNat_dequant]; exact Nat.le_of_lt_succ h2
    · rw [quant_eq_iff, toNat_dequant, hq]
  case error =>
    obtain ⟨hle, hlt⟩ := dequantNat_quantNat hlo (Nat.lt_succ_of_le hhi)
    rw [toNat_dequant, toNat_quant]
    refine ⟨hle, ?_⟩
    change _ ≤ depthStep d.toNat - 1
    omega
  case zero => rw [quant_eq_zero_iff, quantNat_eq_zero_iff]

end Sys2Proof.Machine
end

section
/-! SUPPORT. QUANT and DEQUANT (R68, R69): both write the image of one buffer's first elements to the start of another. -/

namespace Sys2Proof.Machine

/-- What a buffer holds after the first n elements of another, mapped by f, are written at its start. -/
theorem get_setSeq_map_getSeq {v w : Nat} (dst : Memory w) (src : Memory v) (f : BitVec v → BitVec w) (n i : Nat) :
    (dst.setSeq 0 ((src.getSeq 0 n).map f)).get i = if i < n then f (src.get i) else dst.get i := by
  simp [get_setSeq]

/-- Settles O12: R68's check on OP_N, then the codes written to CBUF. -/
theorem quantWritesCodes : Obligations.QuantWritesCodes :=
  ⟨fun s hn => ⟨_, if_neg (Nat.not_lt.2 hn), rfl, get_setSeq_map_getSeq s.cbuf s.din quant s.op.n.toNat⟩,
    fun _ hn => if_pos hn⟩

/-- Settles O13: R69's check on OP_N, then the depths written to DOUT. -/
theorem dequantWritesDepths : Obligations.DequantWritesDepths :=
  ⟨fun s hn => ⟨_, if_neg (Nat.not_lt.2 hn), rfl, get_setSeq_map_getSeq s.dout s.cbuf dequant s.op.n.toNat⟩,
    fun _ hn => if_pos hn⟩

end Sys2Proof.Machine
end

section
/-! SUPPORT. The rescaler's two functions (R70, R73) as maps: what each does to one code, and that code as a number. -/

namespace Sys2Proof.Machine

/-- R70: which numbers steps 1 and 2 look at. -/
theorem mem_nonzeroCodes (c : List Half) (x : Nat) : x ∈ nonzeroCodes c ↔ (∃ v ∈ c, v.toNat = x) ∧ x ≠ 0 := by
  simp [nonzeroCodes]

theorem toNat_mem_nonzeroCodes {c : List Half} {v : Half} (hv : v ∈ c) (h0 : v ≠ 0) : v.toNat ∈ nonzeroCodes c :=
  (mem_nonzeroCodes c _).2 ⟨⟨v, hv, rfl⟩, fun h => h0 (BitVec.eq_of_toNat_eq h)⟩

/-- R70, step 1: a vector without a non-zero code. -/
theorem rescale_of_forall_eq_zero {c : List Half} (h : ∀ v ∈ c, v = 0) : rescale c = ⟨c, 0, 0⟩ := by
  have hnil : nonzeroCodes c = [] := by
    rw [List.eq_nil_iff_forall_not_mem]
    intro x hx
    obtain ⟨⟨v, hv, rfl⟩, hx0⟩ := (mem_nonzeroCodes c x).1 hx
    exact hx0 (congrArg BitVec.toNat (h v hv))
  rw [rescale, hnil]

/-- R70, steps 3 to 5 on one code, with the side data mn and mx. -/
def rescaleElement (mn mx : Half) : Half → Half :=
  let range := mx.toNat - mn.toNat + 1
  if 2048 ≤ range then id else if range ≤ 1 then rescaleFlat else rescaleCode mn.toNat range

/-- R70, step 2: the member that bounds all members below is the one the fold of `Nat.min` finds. -/
theorem foldl_min_eq {v m : Nat} {vs : List Nat} (hmem : m ∈ v :: vs) (hle : ∀ x ∈ v :: vs, m ≤ x) :
    vs.foldl Nat.min v = m :=
  Option.some.inj (List.min?_cons'.symm.trans (List.min?_eq_some_iff.2 ⟨hmem, hle⟩))

/-- R70, step 2: the same for the largest. -/
theorem foldl_max_eq {v m : Nat} {vs : List Nat} (hmem : m ∈ v :: vs) (hle : ∀ x ∈ v :: vs, x ≤ m) :
    vs.foldl Nat.max v = m :=
  Option.some.inj (List.max?_cons'.symm.trans (List.max?_eq_some_iff.2 ⟨hmem, hle⟩))

theorem rescaleElement_zero (mn mx : Half) : rescaleElement mn mx 0 = 0 := by
  unfold rescaleElement
  split_ifs <;> rfl

/-- R70, steps 2 to 5: with mn and mx the smallest and largest non-zero code. -/
theorem rescale_eq_map {c : List Half} {mn mx : Half} (hmn : mn ∈ c) (hmx : mx ∈ c) (hmn0 : mn ≠ 0) (hmx0 : mx ≠ 0)
    (hbound : ∀ v ∈ c, v ≠ 0 → mn.toNat ≤ v.toNat ∧ v.toNat ≤ mx.toNat) :
    rescale c = ⟨c.map (rescaleElement mn mx), mn, mx⟩ := by
  have hmnNat := toNat_mem_nonzeroCodes hmn hmn0
  have hmxNat := toNat_mem_nonzeroCodes hmx hmx0
  have hboundNat : ∀ x ∈ nonzeroCodes c, mn.toNat ≤ x ∧ x ≤ mx.toNat := by
    intro x hx
    obtain ⟨⟨v, hv, rfl⟩, hx0⟩ := (mem_nonzeroCodes c x).1 hx
    exact hbound v hv fun h => hx0 (congrArg BitVec.toNat h)
  unfold rescale
  split
  · next hnil => simp [hnil] at hmnNat
  · next v vs hcons =>
    rw [hcons] at hmnNat hmxNat hboundNat
    simp only [foldl_min_eq hmnNat fun x hx => (hboundNat x hx).1, foldl_max_eq hmxNat fun x hx => (hboundNat x hx).2,
      BitVec.ofNat_toNat, BitVec.setWidth_eq]
    split_ifs with hwide hflat
    · simp [rescaleElement, hwide]
    · simp [rescaleElement, hwide, hflat]
    · simp [rescaleElement, hwide, hflat]

/-- R70: the numerator of step 5 stays below 2^23. -/
theorem rescale_numerator_lt {mn mx v : Nat} (hv : v ≤ mx) (hrange : mx - mn + 1 < 2048) :
    (v - mn) * 2047 + (mx - mn + 1) / 2 < 2 ^ 23 := by
  omega

/-- R70: step 5 gives at most 2048. -/
theorem rescale_quotient_lt {mn mx v : Nat} (hv : v ≤ mx) :
    ((v - mn) * 2047 + (mx - mn + 1) / 2) / (mx - mn + 1) < 2048 :=
  Nat.div_lt_of_lt_mul (by omega)

/-- R70 on one code as a number. -/
theorem toNat_rescaleElement {mn mx v : Half} (hv : v ≠ 0 → v.toNat ≤ mx.toNat) :
    (rescaleElement mn mx v).toNat =
      let range := mx.toNat - mn.toNat + 1
      if 2048 ≤ range ∨ v.toNat = 0 then v.toNat
      else if range ≤ 1 then 1
      else ((v.toNat - mn.toNat) * 2047 + range / 2) / range + 1 := by
  by_cases h0 : v = 0
  · rw [h0, rescaleElement_zero]
    exact (if_pos (.inr rfl)).symm
  · have hquot := rescale_quotient_lt (mn := mn.toNat) (hv h0)
    have h0Nat : v.toNat ≠ 0 := fun h => h0 (BitVec.eq_of_toNat_eq h)
    simp only [rescaleElement, ite_apply, id, rescaleFlat, rescaleCode, if_neg h0, h0Nat, or_false]
    split_ifs
    · rfl
    · rfl
    · rw [BitVec.toNat_ofNat, Nat.mod_eq_of_lt (by omega)]

/-- Settles O14: the all-zero vector, then the map of one code's steps, and the bound on the numerator. -/
theorem rescaleFollowsItsSteps : Obligations.RescaleFollowsItsSteps := by
  refine ⟨fun c => rescale_of_forall_eq_zero, fun c mn mx hmn hmx hmn0 hmx0 hbound => ?steps,
    fun mn mx v _ hv hrange => rescale_numerator_lt hv hrange⟩
  rw [rescale_eq_map hmn hmx hmn0 hmx0 hbound]
  refine ⟨rfl, rfl, List.length_map .., fun i hi => ?_⟩
  have hmem : c.getD i 0 ∈ c := by
    rw [List.getD_eq_getElem _ _ hi]
    exact List.getElem_mem hi
  rw [← toNat_rescaleElement fun h0 => (hbound _ hmem h0).2]
  simp [hi]

/-- R73 on one code, whatever the side data. -/
def unrescaleElement (mn mx : Half) : Half → Half :=
  if 2048 ≤ sideRange mn mx then id
  else if sideRange mn mx ≤ 1 then unrescaleFlat mn
  else unrescaleCode mn (sideRange mn mx).toNat

/-- R73: each code is restored on its own. -/
theorem unrescale_eq_map (c : List Half) (mn mx : Half) : unrescale c mn mx = c.map (unrescaleElement mn mx) := by
  unfold unrescale
  split_ifs with hwide hflat
  · simp [unrescaleElement, hwide]
  · simp [unrescaleElement, hwide, hflat]
  · simp [unrescaleElement, hwide, hflat]

theorem unrescaleElement_zero (mn mx : Half) : unrescaleElement mn mx 0 = 0 := by
  unfold unrescaleElement
  split_ifs <;> rfl

/-- R73's formula over the integers, on one code. -/
theorem toNat_unrescaleElement (mn mx v : Half) :
    ((unrescaleElement mn mx v).toNat : Int) =
      let range := sideRange mn mx
      if 2048 ≤ range ∨ (v.toNat : Int) = 0 then (v.toNat : Int)
      else if range ≤ 1 then ((v.toNat : Int) - 1 + mn.toNat) % 65536
      else ((((v.toNat : Int) - 1) * range + 1023) / 2047 + mn.toNat) % 65536 := by
  by_cases h0 : v = 0
  · rw [h0, unrescaleElement_zero]
    exact (if_pos (.inr rfl)).symm
  · have h0Nat : v.toNat ≠ 0 := fun h => h0 (BitVec.eq_of_toNat_eq h)
    have hpred : ((v.toNat - 1 : Nat) : Int) = v.toNat - 1 := Nat.cast_pred (Nat.pos_of_ne_zero h0Nat)
    simp only [unrescaleElement, ite_apply, id, unrescaleFlat, unrescaleCode, if_neg h0, Nat.cast_eq_zero, h0Nat, or_false]
    split_ifs
    · rfl
    · simp [hpred]
    · have hrange : ((sideRange mn mx).toNat : Int) = sideRange mn mx := Int.toNat_of_nonneg (by omega)
      simp [hpred, hrange]

end Sys2Proof.Machine
end

section
/-! SUPPORT. RESCALE and UNRESCALE (R76, R77): both rewrite the first elements of CBUF in place. -/

namespace Sys2Proof.Machine

/-- What a buffer holds after a sequence is written at its start. -/
theorem get_setSeq_zero {w : Nat} (m : Memory w) (vs : List (BitVec w)) (i : Nat) :
    (m.setSeq 0 vs).get i = if i < vs.length then vs.getD i 0 else m.get i := by
  by_cases hi : i < vs.length <;> simp [get_setSeq, hi]

/-- Settles O17: R76's check on OP_N, then the codes in place and the side data. -/
theorem rescaleWritesCodesAndSideData : Obligations.RescaleWritesCodesAndSideData := by
  refine ⟨fun s hn => ⟨_, if_neg (Nat.not_lt.2 hn), rfl, fun i => ?codes⟩, fun s hn => if_pos hn⟩
  have h := get_setSeq_zero s.cbuf (rescale (s.cbuf.getSeq 0 s.op.n.toNat)).codes i
  rwa [length_rescale, length_getSeq] at h

/-- Settles O18: R77's check on OP_N, then R73's formula on every code in place. -/
theorem unrescaleWritesCodes : Obligations.UnrescaleWritesCodes := by
  refine ⟨fun s hn => ⟨_, if_neg (Nat.not_lt.2 hn), rfl, fun i => ?codes⟩, fun s hn => if_pos hn⟩
  have h := get_setSeq_map_getSeq s.cbuf s.cbuf (unrescaleElement s.op.min s.op.max) s.op.n.toNat i
  rw [← unrescale_eq_map] at h
  refine (congrArg (fun v : Half => (v.toNat : Int)) h).trans ?_
  by_cases hi : i < s.op.n.toNat
  · rw [if_pos hi, toNat_unrescaleElement]
    exact if_congr (or_iff_right (Nat.not_le.2 hi)).symm rfl rfl
  · rw [if_neg hi]
    exact (if_pos (.inl (Nat.not_lt.1 hi))).symm

end Sys2Proof.Machine
end

section
/-! SUPPORT. One lane of the filter (R79 to R83) on numbers: the nibble and the low byte of a code, and the code that
`unfilterCode` gives back. -/

namespace Sys2Proof.Machine

theorem eq_zero_iff_toNat {w : Nat} (v : BitVec w) : v = 0 ↔ v.toNat = 0 := BitVec.toNat_inj.symm

/-- R79, R80: the fold as a number. -/
theorem toNat_fold (rawHigh : Nat) (lo : Byte) :
    (fold rawHigh lo).toNat = if rawHigh % 2 = 1 then 255 - lo.toNat else lo.toNat := by
  rw [fold, apply_ite BitVec.toNat, toNat_255_sub]

/-- R80: folding twice changes nothing. -/
theorem fold_fold (rawHigh : Nat) (lo : Byte) : fold rawHigh (fold rawHigh lo) = lo := by
  apply BitVec.eq_of_toNat_eq
  rw [toNat_fold, toNat_fold]
  split_ifs <;> omega

theorem highNibble_zero : highNibble 0 = 0 := rfl

/-- R79: the nibble of a code other than the sentinel does not overflow. -/
theorem toNat_highNibble {v : Half} (h0 : v ≠ 0) (hv : v.toNat ≤ 2047) : (highNibble v).toNat = v.toNat / 256 + 1 := by
  rw [highNibble, if_neg h0, BitVec.toNat_ofNat]
  omega

/-- R79: the low byte of a code other than the sentinel. -/
theorem lowByte_eq_fold {v : Half} (h0 : v ≠ 0) : lowByte v = fold (v.toNat / 256) (v.setWidth 8) := if_neg h0

/-- R83: no code has nibble 1 with low byte 0, so the source's exception cannot arise. -/
theorem not_highNibble_one_lowByte_zero {v : Half} (hv : v.toNat ≤ 2047) : ¬ (highNibble v = 1 ∧ lowByte v = 0) := by
  rintro ⟨hhi, hlo⟩
  by_cases h0 : v = 0
  · rw [h0, highNibble_zero] at hhi
    exact absurd hhi (by decide)
  · have hhiNat : v.toNat / 256 + 1 = 1 := (toNat_highNibble h0 hv).symm.trans (congrArg BitVec.toNat hhi)
    have hloNat : v.toNat % 256 = 0 := by
      rw [lowByte_eq_fold h0, Nat.succ_injective hhiNat] at hlo
      simpa [fold] using congrArg BitVec.toNat hlo
    exact h0 ((eq_zero_iff_toNat v).2 (by omega))

/-- Two bytes as one u16, as a number. -/
theorem toNat_append_bytes (hi lo : Byte) : (hi ++ lo : Half).toNat = hi.toNat * 256 + lo.toNat := by
  rw [BitVec.toNat_append, ← Nat.shiftLeft_add_eq_or_of_lt lo.isLt, Nat.shiftLeft_eq]

/-- R82: a nibble other than 0 gives no sentinel. -/
theorem unfilterCode_ne_zero {h : BitVec 4} (lo : Byte) (h0 : h ≠ 0) : unfilterCode h lo ≠ 0 := by
  rw [unfilterCode, if_neg h0]
  dsimp only
  split_ifs with hjoin
  · decide
  · exact hjoin

/-- R83: a sample's code is the sentinel exactly when its nibble is. -/
theorem unfilterCode_eq_zero_iff (h : BitVec 4) (lo : Byte) : unfilterCode h lo = 0 ↔ h = 0 :=
  ⟨not_imp_not.1 (unfilterCode_ne_zero lo), fun h0 => if_pos h0⟩

/-- R81 and R82: the clamp fires on nibble 1 with low byte 0 and nowhere else. -/
theorem toNat_unfilterCode_of_not_clamped {h : BitVec 4} {lo : Byte} (h0 : h ≠ 0) (hclamp : ¬ (h = 1 ∧ lo = 0)) :
    (unfilterCode h lo).toNat = (h.toNat - 1) * 256 + (fold (h.toNat - 1) lo).toNat := by
  have hjoin : (BitVec.ofNat 8 (h.toNat - 1) ++ fold (h.toNat - 1) lo : Half).toNat =
      (h.toNat - 1) * 256 + (fold (h.toNat - 1) lo).toNat := by
    rw [toNat_append_bytes, BitVec.toNat_ofNat, Nat.mod_eq_of_lt (by omega)]
  have hne : (h.toNat - 1) * 256 + (fold (h.toNat - 1) lo).toNat ≠ 0 := by
    rw [eq_zero_iff_toNat lo, ← BitVec.toNat_inj] at hclamp
    rw [Ne, eq_zero_iff_toNat] at h0
    intro hzero
    have hone : h.toNat = 1 := by omega
    rw [hone, toNat_fold] at hzero
    exact hclamp ⟨hone, by simpa using hzero⟩
  rw [unfilterCode, if_neg h0, if_neg (by rwa [eq_zero_iff_toNat, hjoin]), hjoin]

/-- R81 and R82 on one lane, with the nibble and the low byte as numbers. -/
theorem toNat_unfilterCode (h : BitVec 4) (lo : Byte) :
    (unfilterCode h lo).toNat =
      if h.toNat = 0 then 0
      else if h.toNat = 1 ∧ lo.toNat = 0 then 1
      else (h.toNat - 1) * 256 + (if (h.toNat - 1) % 2 = 1 then 255 - lo.toNat else lo.toNat) := by
  simp only [← eq_zero_iff_toNat, show h.toNat = 1 ↔ h = 1 from BitVec.toNat_inj (y := 1)]
  by_cases h0 : h = 0
  · rw [if_pos h0, h0]; rfl
  · by_cases hclamp : h = 1 ∧ lo = 0
    · rw [if_neg h0, if_pos hclamp, hclamp.1, hclamp.2]; rfl
    · rw [if_neg h0, if_neg hclamp, toNat_unfilterCode_of_not_clamped h0 hclamp, toNat_fold]

/-- R83: the nibble and the low byte of a code up to 2047 give the code back. -/
theorem unfilterCode_highNibble_lowByte {v : Half} (hv : v.toNat ≤ 2047) :
    unfilterCode (highNibble v) (lowByte v) = v := by
  by_cases h0 : v = 0
  · rw [h0]; rfl
  · have h0Nibble : highNibble v ≠ 0 := fun h => by simpa [h] using toNat_highNibble h0 hv
    rw [← BitVec.toNat_inj, toNat_unfilterCode_of_not_clamped h0Nibble (not_highNibble_one_lowByte_zero hv),
      toNat_highNibble h0 hv, Nat.add_sub_cancel, lowByte_eq_fold h0, fold_fold, BitVec.toNat_setWidth]
    exact Nat.div_add_mod' ..

end Sys2Proof.Machine
end

section
/-! SUPPORT. The two streams of the filter (R60, R79, R81): which lane of which byte belongs to a sample, and the round
trip of a whole vector (R83). -/

namespace Sys2Proof.Machine

/-- Lane 0 of a high byte (R60). -/
@[simp] theorem extractLsb'_append_lane0 (hi lo : BitVec 4) : (hi ++ lo).extractLsb' 0 4 = lo :=
  (BitVec.extractLsb'_append_eq_of_add_le (by omega)).trans BitVec.extractLsb'_eq_self

/-- Lane 1 of a high byte (R60). -/
@[simp] theorem extractLsb'_append_lane1 (hi lo : BitVec 4) : (hi ++ lo).extractLsb' 4 4 = hi :=
  (BitVec.extractLsb'_append_eq_of_le (by omega)).trans BitVec.extractLsb'_eq_self

/-- R79: high byte k holds the nibbles of samples 2k and 2k + 1. -/
theorem getD_filterHigh (c : List Half) (k : Nat) (hk : k < c.length / 2) :
    (filterHigh c).getD k 0 = highNibble (c.getD (2 * k + 1) 0) ++ highNibble (c.getD (2 * k) 0) := by
  induction c using filterHigh.induct generalizing k with
  | case1 a b rest ih =>
    cases k with
    | zero => rfl
    | succ k => exact ih k (by simp only [List.length_cons] at hk; omega)
  | case2 c hshort =>
    match c, hk with
    | [], hk | [_], hk => simp at hk
    | a :: b :: rest, _ => exact absurd rfl (hshort a b rest)

/-- R81: sample i comes from lane i mod 2 of high byte i / 2 and from low byte i. -/
theorem getElem?_unfilter (hs ls : List Byte) (i : Nat) (hlen : ls.length = 2 * hs.length) (hi : i < ls.length) :
    (unfilter hs ls)[i]? = some (unfilterCode ((hs.getD (i / 2) 0).extractLsb' (4 * (i % 2)) 4) (ls.getD i 0)) := by
  induction hs, ls using unfilter.induct generalizing i with
  | case1 h hs a b ls ih =>
    match i with
    | 0 => rfl
    | 1 => rfl
    | i + 2 =>
      simp only [List.length_cons] at hlen hi
      have hrest := ih i (by omega) (by omega)
      simpa [unfilter] using hrest
  | case2 hs ls hshort =>
    match hs, ls, hlen, hi with
    | [], [], _, hi => exact absurd hi (Nat.not_lt_zero i)
    | h :: hs, a :: b :: ls, _, _ => exact absurd rfl (hshort h hs a b ls rfl)

/-- R83: the round trip. -/
theorem unfilter_filter (c : List Half) (heven : c.length % 2 = 0) (hc : ∀ v ∈ c, v.toNat ≤ 2047) :
    unfilter (filterHigh c) (filterLow c) = c := by
  induction c using filterHigh.induct with
  | case1 a b rest ih =>
    obtain ⟨ha, hb, hrest⟩ : a.toNat ≤ 2047 ∧ b.toNat ≤ 2047 ∧ ∀ v ∈ rest, v.toNat ≤ 2047 := by simpa using hc
    have htail := ih (by simp only [List.length_cons] at heven; omega) hrest
    simp only [filterHigh, filterLow, List.map_cons, unfilter, extractLsb'_append_lane0, extractLsb'_append_lane1,
      unfilterCode_highNibble_lowByte ha, unfilterCode_highNibble_lowByte hb]
    exact congrArg (a :: b :: ·) htail
  | case2 c hshort =>
    match c, heven with
    | [], _ => rfl
    | a :: b :: rest, _ => exact absurd rfl (hshort a b rest)

/-- Settles O21: the lanes by recursion over the pairs, then R81's formula and its bounds. -/
theorem unfilterLaneFormula : Obligations.UnfilterLaneFormula := by
  refine ⟨fun hs ls i hlen hi => ⟨length_unfilter hs ls hlen, getElem?_unfilter hs ls i hlen hi⟩,
    fun h lo => ⟨toNat_unfilterCode h lo, ?_⟩⟩
  rw [toNat_unfilterCode]
  split_ifs <;> omega

/-- R83: the 256-code run of a nibble other than 0, clamped or not. -/
theorem toNat_unfilterCode_div {h : BitVec 4} (lo : Byte) (h0 : h ≠ 0) :
    (unfilterCode h lo).toNat / 256 = h.toNat - 1 := by
  by_cases hclamp : h = 1 ∧ lo = 0
  · rw [hclamp.1, hclamp.2]; rfl
  · rw [toNat_unfilterCode_of_not_clamped h0 hclamp]; omega

/-- Settles O22: the round trip and zero preservation by their laws; away from the clamp the change of a low byte is the
change of the code, reversed when raw_high is odd. -/
theorem filterRoundTripAndConfinement : Obligations.FilterRoundTripAndConfinement := by
  refine ⟨unfilter_filter, unfilterCode_eq_zero_iff,
    fun h lo lo' h0 => ⟨toNat_unfilterCode_div lo h0, fun hclamp => ?change⟩, fun v => not_highNibble_one_lowByte_zero⟩
  rw [toNat_unfilterCode_of_not_clamped h0 fun hc => hclamp ⟨hc.1, .inl hc.2⟩,
    toNat_unfilterCode_of_not_clamped h0 fun hc => hclamp ⟨hc.1, .inr hc.2⟩, toNat_fold, toNat_fold]
  by_cases hodd : (h.toNat - 1) % 2 = 1
  · rw [if_pos hodd, if_pos hodd]; omega
  · rw [if_neg hodd, if_neg hodd]; omega

end Sys2Proof.Machine
end

section
/-! SUPPORT. FILTER and UNFILTER (R84, R85): the operand check, then the streams at the start of their buffers. -/

namespace Sys2Proof.Machine

/-- Element i of a read. -/
theorem getD_getSeq {w : Nat} (m : Memory w) (a : Nat) {n i : Nat} (hi : i < n) :
    (m.getSeq a n).getD i 0 = m.get (a + i) := by
  rw [List.getD_eq_getElem _ _ (by simpa using hi), getElem_getSeq]

/-- R84, R85: OP_N beyond N_MAX, or odd. -/
theorem badPairCount_eq_true (s : State) : s.badPairCount = true ↔ nMax < s.op.n.toNat ∨ s.op.n.toNat % 2 = 1 := by
  simp only [State.badPairCount, Bool.or_eq_true, decide_eq_true_eq, beq_iff_eq]
  rfl

/-- A code beyond a bound among the first n elements of a buffer (R84). -/
theorem any_getSeq_gt_iff {w : Nat} (m : Memory w) (n bound : Nat) :
    ((m.getSeq 0 n).any fun v => decide (bound < v.toNat)) = true ↔ ∃ i, i < n ∧ bound < (m.get i).toNat := by
  simp [Memory.getSeq]

/-- What a buffer holds after the high stream of the first n elements of another is written at its start (R84). -/
theorem get_setSeq_filterHigh (dst : Memory 8) (src : Memory 16) (n k : Nat) :
    (dst.setSeq 0 (filterHigh (src.getSeq 0 n))).get k =
      if k < n / 2 then highNibble (src.get (2 * k + 1)) ++ highNibble (src.get (2 * k)) else dst.get k := by
  rw [get_setSeq_zero, length_filterHigh, length_getSeq]
  refine ite_congr rfl (fun hk => ?_) fun _ => rfl
  rw [getD_filterHigh _ _ (by rwa [length_getSeq]), getD_getSeq src 0 (by omega), getD_getSeq src 0 (by omega),
    Nat.zero_add, Nat.zero_add]

/-- What a buffer holds after n samples joined from two streams are written at its start (R85). -/
theorem get_setSeq_unfilter (dst : Memory 16) (hi lo : Memory 8) (n i : Nat) (heven : n % 2 = 0) :
    (dst.setSeq 0 (unfilter (hi.getSeq 0 (n / 2)) (lo.getSeq 0 n))).get i =
      if i < n then unfilterCode ((hi.get (i / 2)).extractLsb' (4 * (i % 2)) 4) (lo.get i) else dst.get i := by
  have hlen : (lo.getSeq 0 n).length = 2 * (hi.getSeq 0 (n / 2)).length := by
    rw [length_getSeq, length_getSeq]; omega
  rw [get_setSeq_zero, length_unfilter _ _ hlen, length_getSeq]
  refine ite_congr rfl (fun hin => ?_) fun _ => rfl
  rw [List.getD_eq_getElem?_getD, getElem?_unfilter _ _ i hlen (by rwa [length_getSeq]), Option.getD_some,
    getD_getSeq hi 0 (by omega), getD_getSeq lo 0 hin, Nat.zero_add, Nat.zero_add]

/-- Settles O23: R84's three checks, then both streams element by element. -/
theorem filterWritesBothStreams : Obligations.FilterWritesBothStreams := by
  refine ⟨fun s hmax heven hcodes => ?success, fun s hbad => ?badOperand⟩
  case success =>
    refine ⟨_, (if_neg ?count).trans (if_neg ?codes), rfl, get_setSeq_filterHigh s.hbuf s.cbuf _,
      get_setSeq_map_getSeq s.lbuf s.cbuf lowByte _⟩
    case count => rw [badPairCount_eq_true]; omega
    case codes =>
      rw [any_getSeq_gt_iff]
      rintro ⟨i, hi, hgt⟩
      exact absurd (hcodes i hi) (Nat.not_le.2 hgt)
  case badOperand =>
    by_cases hcount : s.badPairCount = true
    · exact if_pos hcount
    · have hcode := (or_assoc.2 hbad).resolve_left (mt (badPairCount_eq_true s).2 hcount)
      exact (if_neg hcount).trans (if_pos ((any_getSeq_gt_iff s.cbuf _ 2047).2 hcode))

/-- Settles O24: R85's check on OP_N, then the code of each lane. -/
theorem unfilterWritesCodes : Obligations.UnfilterWritesCodes := by
  refine ⟨fun s hmax heven => ⟨_, if_neg ?count, rfl, fun i => get_setSeq_unfilter s.cbuf s.hbuf s.lbuf _ i heven⟩,
    fun s hbad => if_pos ((badPairCount_eq_true s).2 hbad)⟩
  case count => rw [badPairCount_eq_true]; omega

end Sys2Proof.Machine
end

section
/-! SUPPORT. The frame's fields (R30, R57, R58): a little-endian field and a flag as numbers, and the parser's checks on
them (R87). -/

namespace Sys2Proof.Machine

/-- A byte appended below a bit vector of any width, as a number. -/
theorem toNat_append_byte {n : Nat} (hi : BitVec n) (lo : Byte) : (hi ++ lo).toNat = lo.toNat + 256 * hi.toNat := by
  rw [BitVec.toNat_append, ← Nat.shiftLeft_add_eq_or_of_lt lo.isLt, Nat.shiftLeft_eq]
  omega

/-- R9: `rd16` is little-endian. -/
theorem toNat_rd16 (f : List Byte) (o : Nat) :
    (rd16 f o).toNat = (f.getD o 0).toNat + 256 * (f.getD (o + 1) 0).toNat :=
  toNat_append_byte _ _

/-- R9: `rd32` is little-endian. -/
theorem toNat_rd32 (f : List Byte) (o : Nat) :
    (rd32 f o).toNat = (f.getD o 0).toNat + 256 * (f.getD (o + 1) 0).toNat + 65536 * (f.getD (o + 2) 0).toNat
      + 16777216 * (f.getD (o + 3) 0).toNat := by
  simp only [rd32, byteAt, toNat_append_byte]
  omega

/-- R58: Keyframe is bit 0 of Flags. -/
theorem toNat_flagKey (b : Byte) : (flagKey b).toNat = b.toNat % 2 := by
  simp [flagKey]

/-- R58: HEVC is bit 1 of Flags. -/
theorem toNat_flagHevc (b : Byte) : (flagHevc b).toNat = b.toNat / 2 % 2 := by
  simp [flagHevc, Nat.shiftRight_eq_div_pow]

/-- R57: the magic byte as a number. -/
theorem eq_magic_iff (b : Byte) : b = magic ↔ b.toNat = 0xCA := BitVec.toNat_inj.symm

/-- R87's checks on numbers. -/
theorem parse_eq_checks (f : List Byte) :
    parse f =
      if f.length < 26 then .error .fileTruncated
      else if (f.getD 0 0).toNat ≠ 0xCA then .error .wrongFormat
      else if (rd32 f 12).toNat < 2 then .error .corrupted
      else if f.length ≠ 26 + (rd32 f 16).toNat + (rd32 f 20).toNat then .error .fileTruncated
      else if ¬ (1 ≤ (rd16 f 4).toNat ∧ (rd16 f 4).toNat ≤ 4096 ∧ 1 ≤ (rd16 f 6).toNat ∧ (rd16 f 6).toNat ≤ 4096) then
        .error .corrupted
      else .header (headerOf f) := by
  have hmagic : byteAt f 0 ≠ magic ↔ (f.getD 0 0).toNat ≠ 0xCA := not_congr (eq_magic_iff _)
  have hdims : (!(legalDim (rd16 f 4) && legalDim (rd16 f 6))) = true ↔
      ¬ (1 ≤ (rd16 f 4).toNat ∧ (rd16 f 4).toNat ≤ 4096 ∧ 1 ≤ (rd16 f 6).toNat ∧ (rd16 f 6).toNat ≤ 4096) := by
    rw [Bool.not_eq_true', ← Bool.not_eq_true, Bool.and_eq_true, legalDim_iff, legalDim_iff, and_assoc]
  simp only [parse, hmagic, hdims, headerBytes]

/-- Settles O25: the checks on numbers decide each error, and the header's fields are little-endian. -/
theorem parseChecksInOrder : Obligations.ParseChecksInOrder := by
  intro f
  simp only [parse_eq_checks, toNat_rd16, toNat_rd32]
  split_ifs with hshort hmagic hhub hsize hdims
  · rfl
  · rfl
  · rfl
  · rfl
  · exact ⟨headerOf f, rfl, toNat_flagKey _, toNat_flagHevc _, toNat_rd16 f 2, toNat_rd16 f 4,
      toNat_rd16 f 6, toNat_rd16 f 8, toNat_rd16 f 10, toNat_rd32 f 12, toNat_rd32 f 16, toNat_rd32 f 20⟩
  · rfl

end Sys2Proof.Machine
end

section
/-! SUPPORT. FPARSE, ISDEPTH and ISKEY (R94 to R96): the check on OP_FLEN, then what they report of the frame in FIN. -/

namespace Sys2Proof.Machine

/-- The OP_FLEN check passes (R94, R95, R96). -/
theorem if_badFrameLength_of_le {s : State} (hlen : s.op.flen.toNat ≤ s.params.frameCap) (bad ok : Answer) :
    (if s.badFrameLength then bad else ok) = ok :=
  if_neg (mt of_decide_eq_true (Nat.not_lt.2 hlen))

/-- The OP_FLEN check fails (R94, R95, R96). -/
theorem if_badFrameLength_of_lt {s : State} (hlen : s.params.frameCap < s.op.flen.toNat) (bad ok : Answer) :
    (if s.badFrameLength then bad else ok) = bad :=
  if_pos (decide_eq_true hlen)

/-- R94: FPARSE of a frame that parses. -/
theorem execFparse_of_header {s : State} {hdr : Header} (hlen : s.op.flen.toNat ≤ s.params.frameCap)
    (hparse : parse s.inputFrame = .header hdr) : execFparse s = succeed (publish hdr s.opFrameLength s) := by
  rw [execFparse, if_badFrameLength_of_le hlen, hparse]

/-- R94: FPARSE of a frame that does not. -/
theorem execFparse_of_error {s : State} {e : Result} (hlen : s.op.flen.toNat ≤ s.params.frameCap)
    (hparse : parse s.inputFrame = .error e) : execFparse s = raise e s := by
  rw [execFparse, if_badFrameLength_of_le hlen, hparse]

/-- Settles O28: the header is published, with OP_FLEN as the length. -/
theorem fparseReportsTheHeader : Obligations.FparseReportsTheHeader := by
  refine ⟨fun s hdr hlen hparse => ?header, fun s e hlen hparse => execFparse_of_error hlen hparse,
    fun s hlong => if_badFrameLength_of_lt hlong _ _⟩
  have hflen : BitVec.ofNat 32 s.opFrameLength = s.op.flen := (BitVec.ofNat_toNat ..).trans (BitVec.setWidth_eq _)
  refine (execFparse_of_header hlen hparse).trans ?_
  rw [publish, hflen]
  rfl

/-- A Boolean as a one-bit register (R95, R96). -/
theorem ofBool_eq_ite {b : Bool} {p : Prop} [Decidable p] (h : b = true ↔ p) : BitVec.ofBool b = if p then 1 else 0 := by
  rw [← if_congr h rfl rfl]
  cases b <;> rfl

/-- R91 on a frame in a buffer. -/
theorem isDepthFrame_getSeq (m : Memory 8) (n : Nat) :
    isDepthFrame (m.getSeq 0 n) = true ↔ 26 ≤ n ∧ m.get 0 = 0xCA := by
  rw [isDepthFrame, Bool.and_eq_true, decide_eq_true_eq, beq_iff_eq, length_getSeq]
  refine and_congr_right fun hn => ?_
  have hn : 26 ≤ n := hn
  rw [byteAt, getD_getSeq m 0 (by omega)]
  rfl

/-- R91 on a frame in a buffer, with bit 0 of its second byte. -/
theorem isKeyFrame_getSeq (m : Memory 8) (n : Nat) :
    isKeyFrame (m.getSeq 0 n) = true ↔ 26 ≤ n ∧ m.get 0 = 0xCA ∧ (m.get 1).toNat % 2 = 1 := by
  rw [isKeyFrame, Bool.and_eq_true, isDepthFrame_getSeq, beq_iff_eq, and_assoc]
  refine and_congr_right fun hn => and_congr_right fun _ => ?_
  rw [byteAt, getD_getSeq m 0 (by omega), ← BitVec.toNat_inj, toNat_flagKey]
  rfl

/-- Settles O29: R_BOOL is `isDepthFrame` of the frame in FIN. -/
theorem isdepthTestsLengthAndMagic : Obligations.IsdepthTestsLengthAndMagic := by
  refine ⟨fun s hlen => ?bool, fun s hlong => if_badFrameLength_of_lt hlong _ _⟩
  rw [← ofBool_eq_ite (isDepthFrame_getSeq s.fin s.op.flen.toNat)]
  exact if_badFrameLength_of_le hlen _ _

/-- Settles O30: R_BOOL is `isKeyFrame` of the frame in FIN. -/
theorem iskeyTestsTheKeyframeFlag : Obligations.IskeyTestsTheKeyframeFlag := by
  refine ⟨fun s hlen => ?bool, fun s hlong => if_badFrameLength_of_lt hlong _ _⟩
  rw [← ofBool_eq_ite (isKeyFrame_getSeq s.fin s.op.flen.toNat)]
  exact if_badFrameLength_of_le hlen _ _

end Sys2Proof.Machine
end

section
/-! SUPPORT. The assembled frame (R86): its 26 header bytes, the payloads after them, and the fields read back. -/

namespace Sys2Proof.Machine

variable (flags : BitVec 2) (fn w h mn mx : Half) (hub : Word) (hi lo : List Byte)

/-- R86's header bytes, by shifts. -/
theorem take_assemble :
    (assemble flags fn w h mn mx hub hi lo).take 26 =
      [0xCA, flags.setWidth 8, fn.setWidth 8, (fn >>> 8).setWidth 8, w.setWidth 8, (w >>> 8).setWidth 8, h.setWidth 8,
       (h >>> 8).setWidth 8, mn.setWidth 8, (mn >>> 8).setWidth 8, mx.setWidth 8, (mx >>> 8).setWidth 8, hub.setWidth 8,
       (hub >>> 8).setWidth 8, (hub >>> 16).setWidth 8, (hub >>> 24).setWidth 8, (BitVec.ofNat 32 hi.length).setWidth 8,
       (BitVec.ofNat 32 hi.length >>> 8).setWidth 8, (BitVec.ofNat 32 hi.length >>> 16).setWidth 8,
       (BitVec.ofNat 32 hi.length >>> 24).setWidth 8, (BitVec.ofNat 32 lo.length).setWidth 8,
       (BitVec.ofNat 32 lo.length >>> 8).setWidth 8, (BitVec.ofNat 32 lo.length >>> 16).setWidth 8,
       (BitVec.ofNat 32 lo.length >>> 24).setWidth 8, 0, 0] := by
  rw [assemble_eq]
  simp only [BitVec.setWidth_ushiftRight_eq_extractLsb]
  rfl

/-- The payloads stand after the header (R56, R86). -/
theorem drop_assemble : (assemble flags fn w h mn mx hub hi lo).drop 26 = hi ++ lo := by
  rw [assemble_eq]
  rfl

/-- Byte k of the payloads is byte 26 + k of the frame. -/
theorem getD_assemble (k : Nat) : (assemble flags fn w h mn mx hub hi lo).getD (26 + k) 0 = (hi ++ lo).getD k 0 := by
  rw [← drop_assemble flags fn w h mn mx hub hi lo, List.getD_eq_getElem?_getD, List.getD_eq_getElem?_getD,
    List.getElem?_drop]

/-- The header of an assembled frame, the section lengths as R86 writes them. -/
theorem headerOf_assemble :
    headerOf (assemble flags fn w h mn mx hub hi lo) =
      ⟨flags.extractLsb' 0 1, flags.extractLsb' 1 1, fn, w, h, mn, mx, hub,
        BitVec.ofNat 32 hi.length, BitVec.ofNat 32 lo.length⟩ := by
  have hkey : flagKey (flagsByte flags) = flags.extractLsb' 0 1 := by revert flags; decide
  have hhevc : flagHevc (flagsByte flags) = flags.extractLsb' 1 1 := by revert flags; decide
  rw [assemble_eq]
  simp [headerOf, byteAt, rd16, rd32, append_bytes16, append_bytes32, hkey, hhevc]

/-- R91: an assembled frame is a depth frame, and a keyframe when bit 0 of its flags is set. -/
theorem isKeyFrame_assemble :
    isKeyFrame (assemble flags fn w h mn mx hub hi lo) = (flags.extractLsb' 0 1 == 1) := by
  have hlen : headerBytes ≤ (assemble flags fn w h mn mx hub hi lo).length := by rw [length_assemble]; omega
  have hmagic : byteAt (assemble flags fn w h mn mx hub hi lo) 0 = magic := rfl
  have hkey := congrArg Header.key (headerOf_assemble flags fn w h mn mx hub hi lo)
  simp only [headerOf] at hkey
  simp [isKeyFrame, isDepthFrame, hlen, hmagic, hkey]

end Sys2Proof.Machine
end

section
/-! SUPPORT. FASM (R93): the operand check, then the operand frame byte by byte in FOUT. -/

namespace Sys2Proof.Machine

/-- The start of a sequence that was written. -/
theorem getSeq_setSeq_take {w : Nat} (m : Memory w) (a : Nat) (vs : List (BitVec w)) {n : Nat} (hn : n ≤ vs.length) :
    (m.setSeq a vs).getSeq a n = vs.take n := by
  refine List.ext_getElem (by simpa using hn) fun k hk _ => ?_
  rw [length_getSeq] at hk
  rw [getElem_getSeq, get_setSeq_inside _ _ _ _ (by omega), List.getElem_take]

/-- R93: the frame's length. -/
theorem length_operandFrame (s : State) :
    s.operandFrame.length = 26 + s.op.hcb.toNat + s.op.lcb.toNat := by
  rw [State.operandFrame, length_assemble, length_getSeq, length_getSeq]
  rfl

/-- What FOUT holds past the header after FASM (R93). -/
theorem get_setSeq_operandFrame (s : State) (i : Nat) (hi : 26 ≤ i) :
    (s.fout.setSeq 0 s.operandFrame).get i =
      if i < 26 + s.op.hcb.toNat then s.hbuf.get (i - 26)
      else if i < 26 + s.op.hcb.toNat + s.op.lcb.toNat then s.lbuf.get (i - (26 + s.op.hcb.toNat))
      else s.fout.get i := by
  obtain ⟨k, rfl⟩ := Nat.exists_eq_add_of_le hi
  have hpayload : s.operandFrame.getD (26 + k) 0 =
      (s.hbuf.getSeq 0 s.op.hcb.toNat ++ s.lbuf.getSeq 0 s.op.lcb.toNat).getD k 0 := getD_assemble ..
  rw [get_setSeq_zero, length_operandFrame, hpayload, Nat.add_sub_cancel_left, Nat.add_sub_add_left]
  by_cases hhigh : k < s.op.hcb.toNat
  · rw [if_pos (by omega), if_pos (by omega), List.getD_append _ _ _ _ (by rwa [length_getSeq]),
      getD_getSeq _ _ hhigh, Nat.zero_add]
  · rw [if_neg (show ¬ 26 + k < 26 + s.op.hcb.toNat by omega)]
    refine ite_congr rfl (fun hlow => ?_) fun _ => rfl
    rw [List.getD_append_right _ _ _ _ (by rw [length_getSeq]; omega), length_getSeq, getD_getSeq _ _ (by omega),
      Nat.zero_add]

/-- Settles O27: R93's check on the operands, then the header bytes and the payloads of the operand frame. -/
theorem fasmWritesTheFrame : Obligations.FasmWritesTheFrame := by
  refine ⟨fun s hhcb hlcb hcap => ⟨_, if_neg ?fits, ?state, ?header, get_setSeq_operandFrame s⟩,
    fun s hbad => if_pos ?breach⟩
  case fits =>
    rw [Bool.not_eq_true]
    exact (badSections_eq_false s).2 ⟨hhcb, hlcb, hcap⟩
  case breach =>
    rw [← Bool.not_eq_false, badSections_eq_false]
    simp only [headerBytes]
    omega
  case state => rw [← length_operandFrame]; rfl
  case header =>
    have htake := take_assemble s.op.flags s.op.fn s.op.w s.op.h s.op.min s.op.max s.op.hub
      (s.hbuf.getSeq 0 s.op.hcb.toNat) (s.lbuf.getSeq 0 s.op.lcb.toNat)
    simp only [length_getSeq, BitVec.ofNat_toNat, BitVec.setWidth_eq] at htake
    exact (getSeq_setSeq_take _ _ _ (by rw [length_operandFrame]; omega)).trans htake

end Sys2Proof.Machine
end

section
/-! SUPPORT. The frame an ENCODE emits (R92): read back from FOUT it is the assembled frame, whose length FRAME_CAP bounds. -/

namespace Sys2Proof.Machine

/-- A Boolean read back from a one-bit field. -/
theorem ofBool_beq_one (b : Bool) : (BitVec.ofBool b == 1) = b := by cases b <;> rfl

/-- R98, R103: a successful ENCODE passed its checks, and its state is that of the emitted frame. -/
theorem encodeWith_success {k : Bool} {s t : State} (h : encodeWith k s = .next t) (hok : t.result = .success) :
    ∃ (hdr : Header) (p : Payloads) (u : State), hdr.key = BitVec.ofBool (keyframe k s) ∧
      headerBytes + p.hi.length + p.lo.length ≤ s.params.frameCap ∧ t = endCommand .success (emitFrame hdr p u) := by
  obtain ⟨-, rfl⟩ | ⟨-, -, rfl⟩ | ⟨-, -, hcap, rfl⟩ := encodeWith_next h
  · cases hok
  · cases hok
  · exact ⟨_, _, _, rfl, hcap, rfl⟩

/-- R103: FOUT[0 .. R_LEN) is the emitted frame when its length fits R_LEN. -/
theorem getSeq_emitFrame (hdr : Header) (p : Payloads) (u : State) (hlen : (frameOf hdr p).length < 2 ^ 32) :
    (emitFrame hdr p u).fout.getSeq 0 (emitFrame hdr p u).resp.len.toNat = frameOf hdr p :=
  getSeq_setSeq _ _ _ _ ((BitVec.toNat_ofNat ..).trans (Nat.mod_eq_of_lt hlen))

/-- R92 for a frame whose length fits 32 bits. -/
theorem frameOf_invariants (hdr : Header) (p : Payloads) (hlen : headerBytes + p.hi.length + p.lo.length < 2 ^ 32) :
    (frameOf hdr p).getD 0 0 = 0xCA ∧
    (frameOf hdr p).length = 26 + (rd32 (frameOf hdr p) 16).toNat + (rd32 (frameOf hdr p) 20).toNat ∧
    isKeyFrame (frameOf hdr p) = (hdr.key == 1) := by
  have hheader := headerOf_assemble (flagPair hdr.key hdr.hevc) hdr.fn hdr.w hdr.h hdr.min hdr.max hdr.hub p.hi p.lo
  have hhcb : rd32 (frameOf hdr p) 16 = BitVec.ofNat 32 p.hi.length := congrArg Header.hcb hheader
  have hlcb : rd32 (frameOf hdr p) 20 = BitVec.ofNat 32 p.lo.length := congrArg Header.lcb hheader
  have hkey : (flagPair hdr.key hdr.hevc).extractLsb' 0 1 = hdr.key := by
    generalize hdr.key = key, hdr.hevc = hevc
    revert key hevc; decide
  refine ⟨rfl, ?length, ?key⟩
  case length =>
    rw [hhcb, hlcb, BitVec.toNat_ofNat, BitVec.toNat_ofNat, Nat.mod_eq_of_lt (by omega), Nat.mod_eq_of_lt (by omega)]
    exact length_assemble ..
  case key => rw [frameOf, isKeyFrame_assemble, hkey]

/-- Settles O36: a successful ENCODE leaves the assembled frame in FOUT[0 .. R_LEN), and R92 holds of it. -/
theorem emittedFrameInvariants : Obligations.EmittedFrameInvariants := by
  intro i k s t hi hlegal hexec hok
  have hencode : encodeWith k s = .next t := by
    obtain ⟨rfl, rfl⟩ | ⟨rfl, rfl⟩ := hi <;> exact hexec
  obtain ⟨hdr, p, u, hkey, hcap, rfl⟩ := encodeWith_success hencode hok
  have hlen : headerBytes + p.hi.length + p.lo.length < 2 ^ 32 := by
    have := hlegal.2
    omega
  have hframe : (endCommand .success (emitFrame hdr p u)).fout.getSeq 0
      (endCommand .success (emitFrame hdr p u)).resp.len.toNat = frameOf hdr p :=
    getSeq_emitFrame hdr p u ((length_assemble ..).trans_lt hlen)
  obtain ⟨hmagic, hsize, hflag⟩ := frameOf_invariants hdr p hlen
  refine hframe ▸ ⟨hmagic, hsize, hflag.trans ?key⟩
  rw [hkey, ofBool_beq_one, keyframe]

end Sys2Proof.Machine
end

section
/-! SUPPORT. The sequencer (R97 to R99): what a unit command can change, and the rows of R97's table for ENCODE and DECODE. -/

namespace Sys2Proof.Machine

/-- Settles O31: R99's next state, and the fresh HS and LS in it. -/
theorem sresetStartsAFreshSession : Obligations.SresetStartsAFreshSession :=
  fun _ => ⟨_, rfl, rfl, rfl, rfl⟩

/-! The unit commands. -/

/-- `t` differs from `s` at most in what a unit command writes: RESULT, BUSY, the response registers, and the buffers DOUT,
CBUF, HBUF, LBUF and FOUT. -/
def UnitFrame (s t : State) : Prop :=
  t = { s with
    result := t.result, busy := t.busy, resp := t.resp, dout := t.dout, cbuf := t.cbuf, hbuf := t.hbuf, lbuf := t.lbuf
    fout := t.fout }

theorem UnitFrame.role {s t : State} (h : UnitFrame s t) : t.role = s.role := by
  rw [UnitFrame] at h; rw [h]

theorem UnitFrame.frameCount {s t : State} (h : UnitFrame s t) : t.frameCount = s.frameCount := by
  rw [UnitFrame] at h; rw [h]

/-- Every next state an answer can be is within the frame of `s`. -/
def UnitAnswer (s : State) (a : Answer) : Prop := ∀ t, a = .next t → UnitFrame s t

theorem UnitAnswer.raise (r : Result) (s : State) : UnitAnswer s (raise r s) :=
  fun _ h => (raise_next _ _ _).1 h ▸ rfl

theorem UnitAnswer.succeed {s u : State} (hu : UnitFrame s u) : UnitAnswer s (succeed u) :=
  fun _ h => (succeed_next _ _).1 h ▸ congrArg (endCommand .success) hu

/-- An operand check leads to one of its two answers. -/
theorem UnitAnswer.ite {s : State} {a b : Answer} {c : Prop} [Decidable c] (ha : UnitAnswer s a) (hb : UnitAnswer s b) :
    UnitAnswer s (if c then a else b) := by
  split
  · exact ha
  · exact hb

/-- R147: a unit command changes only what `UnitFrame` names. -/
theorem unitAnswer_exec {i : Instr} (hi : isUnitCommand i = true) (s : State) : UnitAnswer s (exec i s) := by
  cases i with
  | quant | dequant | rescale | unrescale | unfilter | fasm | isdepth | iskey => exact .ite (.raise _ s) (.succeed rfl)
  | filter => exact .ite (.raise _ s) (.ite (.raise _ s) (.succeed rfl))
  | fparse =>
    refine .ite (.raise _ s) ?_
    split
    · exact .raise _ s
    · exact .succeed rfl
  | sreset | encode | encodeK | decode => cases hi

/-- R97: a unit command moves neither ROLE nor FRAME_COUNT. -/
theorem unitCommand_session {i : Instr} {s t : State} (hi : isUnitCommand i = true) (h : exec i s = .next t) :
    t.role = s.role ∧ t.frameCount = s.frameCount :=
  have ht := unitAnswer_exec hi s t h
  ⟨ht.role, ht.frameCount⟩

/-! ENCODE and DECODE. -/

@[simp] theorem encodePayloads_role (key : Bool) (s : State) : (encodePayloads key s).1.role = s.role := by
  rw [encodePayloads_frame]

@[simp] theorem encodePayloads_frameCount (key : Bool) (s : State) :
    (encodePayloads key s).1.frameCount = s.frameCount := by
  rw [encodePayloads_frame]

@[simp] theorem emitFrame_role (hdr : Header) (p : Payloads) (s : State) : (emitFrame hdr p s).role = s.role := rfl
@[simp] theorem emitFrame_frameCount (hdr : Header) (p : Payloads) (s : State) :
    (emitFrame hdr p s).frameCount = s.frameCount + 1 := rfl
@[simp] theorem emitFrame_resp_key (hdr : Header) (p : Payloads) (s : State) :
    (emitFrame hdr p s).resp.key = hdr.key := rfl

@[simp] theorem deliverImage_role (hdr : Header) (plane : List Byte) (s : State) :
    (deliverImage hdr plane s).role = s.role := rfl
@[simp] theorem deliverImage_frameCount (hdr : Header) (plane : List Byte) (s : State) :
    (deliverImage hdr plane s).frameCount = s.frameCount + 1 := rfl
@[simp] theorem deliverImage_resp_key (hdr : Header) (plane : List Byte) (s : State) :
    (deliverImage hdr plane s).resp.key = hdr.key := rfl

@[simp] theorem vcDecode_role (job : DecodeJob) (s : State) : (vcDecode job s).1.role = s.role := rfl
@[simp] theorem vcDecode_frameCount (job : DecodeJob) (s : State) : (vcDecode job s).1.frameCount = s.frameCount := rfl

/-- R98: past its role check ENCODE has the role ENC. -/
theorem claimRole_enc_role {s : State} (h : s.role ≠ .dec) : (claimRole .enc s).role = .enc :=
  claimRole_role .enc s (by cases hr : s.role <;> simp_all)

/-- R98: past its role check DECODE has the role DEC. -/
theorem claimRole_dec_role {s : State} (h : s.role ≠ .enc) : (claimRole .dec s).role = .dec :=
  claimRole_role .dec s (by cases hr : s.role <;> simp_all)

/-- R100: the first frame of a session is a keyframe. -/
theorem keyframe_of_frameCount_eq_zero (k : Bool) {s : State} (h : s.frameCount = 0) : keyframe k s = true := by
  simp [keyframe, h]

/-- The three rows of R97's table for ENCODE, by outcome. -/
theorem encodeWith_transition {k : Bool} {s t : State} (h : encodeWith k s = .next t) :
    (s.role = .dec ∧ t.result = .illegalCommand ∧ t.role = s.role ∧ t.frameCount = s.frameCount) ∨
    (s.role ≠ .dec ∧ t.result = .badOperand ∧ t.role = s.role ∧ t.frameCount = s.frameCount) ∨
    (s.role ≠ .dec ∧ t.result = .success ∧ t.role = .enc ∧ t.frameCount = s.frameCount + 1 ∧
      (s.frameCount = 0 → t.resp.key = 1)) := by
  obtain ⟨hrole, rfl⟩ | ⟨hrole, -, rfl⟩ | ⟨hrole, -, -, rfl⟩ := encodeWith_next h
  · exact .inl ⟨hrole, rfl, rfl, rfl⟩
  · exact .inr (.inl ⟨hrole, rfl, rfl, rfl⟩)
  · refine .inr (.inr ⟨hrole, rfl, ?role, ?count, fun hfresh => ?key⟩)
    case role => simp [claimRole_enc_role hrole]
    case count => simp
    case key => simp [State.encodeHeader, keyframe_of_frameCount_eq_zero k hfresh]

/-- The four rows of R97's table for DECODE, by outcome. -/
theorem execDecode_transition {s t : State} (h : execDecode s = .next t) :
    (s.role = .enc ∧ t.result = .illegalCommand ∧ t.role = s.role ∧ t.frameCount = s.frameCount) ∨
    (s.role ≠ .enc ∧ t.result = .badOperand ∧ t.role = s.role ∧ t.frameCount = s.frameCount) ∨
    (s.role ≠ .enc ∧
      (t.result = .fileTruncated ∨ t.result = .wrongFormat ∨ t.result = .corrupted ∨ t.result = .missingFrame) ∧
      t.role = .dec ∧ t.frameCount = s.frameCount) ∨
    (s.role ≠ .enc ∧ t.result = .success ∧ t.role = .dec ∧ t.frameCount = s.frameCount + 1 ∧
      (s.frameCount = 0 → t.resp.key = 1)) := by
  obtain ⟨hrole, rfl⟩ | ⟨hrole, -, rfl⟩ | ⟨hrole, -, herror, ht⟩ | ⟨hrole, -, hdr, hs, plane, -, hkey, -, -, -, -, rfl⟩ :=
    execDecode_next h
  · exact .inl ⟨hrole, rfl, rfl, rfl⟩
  · exact .inr (.inl ⟨hrole, rfl, rfl, rfl⟩)
  · exact .inr (.inr (.inl ⟨hrole, herror, (congrArg State.role ht).trans (claimRole_dec_role hrole),
      (congrArg State.frameCount ht).trans (claimRole_frameCount .dec s)⟩))
  · refine .inr (.inr (.inr ⟨hrole, rfl, ?role, ?count, fun hfresh => ?key⟩))
    case role => simp [claimRole_dec_role hrole]
    case count => simp
    case key => exact hkey.resolve_right (not_not_intro hfresh)

/-- Settles O40: R97's table, row by row. -/
theorem sequencerTransitions : Obligations.SequencerTransitions := by
  refine ⟨fun i s t h => ⟨?sreset, ?encode, ?decode, fun hi => unitCommand_session hi h⟩, fun s t hbad h => ?illegal,
    fun s => ⟨rfl, rfl⟩⟩
  case sreset =>
    rintro rfl
    obtain ⟨u, hu, hfresh, -, -⟩ := sresetStartsAFreshSession s
    cases hu.symm.trans h
    exact ⟨congrArg State.role hfresh, congrArg State.frameCount hfresh⟩
  case encode =>
    intro hi
    obtain ⟨k, hk⟩ : ∃ k, encodeWith k s = .next t := by
      obtain rfl | rfl := hi <;> exact ⟨_, h⟩
    obtain ⟨hrole, hres, hstay⟩ | ⟨hrole, hres, hstay⟩ | ⟨hrole, hres, hclaim, hcount, hkey⟩ := encodeWith_transition hk
    · simp [hrole, hres, hstay]
    · simp [hrole, hres, hstay]
    · simpa [hrole, hres, hclaim, hcount] using hkey
  case decode =>
    rintro rfl
    obtain ⟨hrole, hres, hstay⟩ | ⟨hrole, hres, hstay⟩ | ⟨hrole, herror, hstay⟩ | ⟨hrole, hres, hclaim, hcount, hkey⟩ :=
      execDecode_transition h
    · simp [hrole, hres, hstay]
    · simp [hrole, hres, hstay]
    · obtain hres | hres | hres | hres := herror <;> simp [hrole, hres, hstay]
    · simpa [hrole, hres, hclaim, hcount] using hkey
  case illegal =>
    rw [runCommand_of_decode_error hbad, raise_next] at h
    rw [h]
    exact ⟨rfl, rfl⟩

end Sys2Proof.Machine
end

section
/-! SUPPORT. What an error leaves changed (R122): outside DECODE nothing but RESULT and BUSY; in DECODE also ROLE and what
the two coders wrote, with VCTX the video decoder's answer. -/

namespace Sys2Proof.Machine

/-- Every next state an answer can be has the property `P`. -/
def Answers (P : State → Prop) (a : Answer) : Prop := ∀ t, a = .next t → P t

theorem Answers.raise {P : State → Prop} {r : Result} {s : State} (h : P (endCommand r s)) : Answers P (raise r s) :=
  fun _ ht => (raise_next _ _ _).1 ht ▸ h

theorem Answers.succeed {P : State → Prop} {s : State} (h : P (endCommand .success s)) : Answers P (succeed s) :=
  fun _ ht => (succeed_next _ _).1 ht ▸ h

/-- A check leads to one of its two answers. -/
theorem Answers.ite {P : State → Prop} {a b : Answer} {c : Prop} [Decidable c] (ha : Answers P a) (hb : Answers P b) :
    Answers P (if c then a else b) := by
  split
  · exact ha
  · exact hb

/-! The commands but DECODE. -/

/-- `t` is a Success, or `s` with the command ended and no other change (R113). -/
def SuccessOrUnchanged (s t : State) : Prop := t.result ≠ .success → t = endCommand t.result s

/-- R98, R103: ENCODE's errors come before any change. -/
theorem successOrUnchanged_encodeWith (k : Bool) (s : State) : Answers (SuccessOrUnchanged s) (encodeWith k s) := by
  intro t h
  obtain ⟨-, rfl⟩ | ⟨-, -, rfl⟩ | ⟨-, -, -, rfl⟩ := encodeWith_next h
  · exact fun _ => rfl
  · exact fun _ => rfl
  · exact fun herror => absurd rfl herror

/-- R122: a command other than DECODE that ends in an error leaves no partial effect. -/
theorem successOrUnchanged_exec {i : Instr} (hi : i ≠ .decode) (s : State) :
    Answers (SuccessOrUnchanged s) (exec i s) := by
  have hraise (r : Result) : Answers (SuccessOrUnchanged s) (raise r s) := .raise fun _ => rfl
  have hsucceed (u : State) : Answers (SuccessOrUnchanged s) (succeed u) := .succeed fun herror => absurd rfl herror
  cases i with
  | sreset => exact hsucceed _
  | quant | dequant | rescale | unrescale | unfilter | fasm | isdepth | iskey => exact .ite (hraise _) (hsucceed _)
  | filter => exact .ite (hraise _) (.ite (hraise _) (hsucceed _))
  | fparse =>
    refine .ite (hraise _) ?_
    split
    · exact hraise _
    · exact hsucceed _
  | encode => exact successOrUnchanged_encodeWith false s
  | encodeK => exact successOrUnchanged_encodeWith true s
  | decode => exact absurd rfl hi

/-! DECODE. -/

/-- Taking a role leaves the frame the host has written. -/
theorem claimRole_inputFrame (r : Role) (s : State) : (claimRole r s).inputFrame = s.inputFrame := by
  simp [State.inputFrame, State.opFrameLength]

/-- R109: DECODE of a parsed frame leaves VCTX, or leaves it as the one call of the video decoder did. -/
theorem decodeParsed_vctx (f : List Byte) (hdr : Header) (s : State) :
    Answers (fun t => t.vctx = s.vctx ∨ t.vctx = (vcDecode (decodeJob f hdr) s).1.vctx) (decodeParsed f hdr s) := by
  refine .ite (.raise (.inl rfl)) (.ite (.raise (.inl rfl)) ?_)
  split
  · exact .raise (.inl rfl)
  · refine .ite (.raise (.inl rfl)) ?_
    unfold decodeLow
    dsimp only
    split
    · exact .raise (.inr rfl)
    · exact .succeed (.inr rfl)

/-- R109, R122: DECODE moves VCTX only when the frame parses, and then to the video decoder's answer. -/
theorem execDecode_vctx (s : State) :
    Answers (fun t => t.vctx = s.vctx ∨ ∃ hdr, parse s.inputFrame = .header hdr ∧
      t.vctx = (vcDecode (decodeJob s.inputFrame hdr) s).1.vctx) (execDecode s) := by
  refine .ite (.raise (.inl rfl)) (.ite (.raise (.inl rfl)) ?_)
  have hvctx : (claimRole .dec s).vctx = s.vctx := claimRole_vctx .dec s
  rw [decodeFrame, claimRole_inputFrame]
  split
  · exact .raise (.inl hvctx)
  · next hdr hparse =>
    intro t h
    obtain hkept | hmoved := decodeParsed_vctx _ _ _ t h
    · exact .inl (hkept.trans hvctx)
    · refine .inr ⟨hdr, hparse, hmoved.trans ?_⟩
      simp [vcDecode]

/-- R17: taking a role moves ROLE only from NONE. -/
theorem claimRole_role_ne {r : Role} {s : State} (h : (claimRole r s).role ≠ s.role) :
    s.role = .none ∧ (claimRole r s).role = r := by
  by_cases hnone : s.role = .none
  · exact ⟨hnone, claimRole_role r s (.inl hnone)⟩
  · exact absurd (congrArg State.role (if_neg hnone)) h

/-- R122: DECODE's error before its role claim changes nothing; one after it keeps what the claim and the coders wrote. -/
theorem execDecode_error {s t : State} (h : execDecode s = .next t) (herror : t.result ≠ .success) :
    t = endCommand t.result s ∨
    (s.badFrameLength = false ∧ t.role = (claimRole .dec s).role ∧
      t = { s with
        result := t.result, busy := false, role := t.role, vctx := t.vctx, hs := t.hs, ls := t.ls, draws := t.draws }) := by
  obtain ⟨-, rfl⟩ | ⟨-, -, rfl⟩ | ⟨-, hlen, -, ht⟩ | ⟨-, -, _, _, _, -, -, -, -, -, -, rfl⟩ := execDecode_next h
  · exact .inl rfl
  · exact .inl rfl
  · have hrole : t.role = (claimRole .dec s).role := (congrArg State.role ht :)
    have hls : t.ls = s.ls := (congrArg State.ls ht).trans (claimRole_ls .dec s)
    refine .inr ⟨hlen, hrole, ?_⟩
    rw [claimRole_eq] at ht
    rw [hrole, hls]
    exact ht
  · exact absurd rfl herror

/-- Settles O42: outside DECODE an error ends the command and changes nothing else; DECODE's own errors move ROLE by
`claimRole` and VCTX by the video decoder's answer. -/
theorem errorsLeaveOnlyPartialEffects : Obligations.ErrorsLeaveOnlyPartialEffects := by
  intro i s t h herror
  by_cases hi : i = .decode
  · subst hi
    obtain hunchanged | ⟨hlen, hrole, hframe⟩ := execDecode_error h herror
    · rw [hunchanged]
      exact ⟨rfl, fun hmoved => absurd rfl hmoved, .inl rfl⟩
    · refine ⟨hframe, fun hmoved => ?_, (execDecode_vctx s t h).imp_right fun hanswer => ⟨rfl, hanswer⟩⟩
      rw [hrole] at hmoved ⊢
      obtain ⟨hnone, hdec⟩ := claimRole_role_ne hmoved
      exact ⟨rfl, hnone, hdec, Nat.not_lt.1 (of_decide_eq_false hlen)⟩
  · rw [successOrUnchanged_exec hi s t h herror]
    exact ⟨rfl, fun hmoved => absurd rfl hmoved, .inl rfl⟩

end Sys2Proof.Machine
end

section
/-! SUPPORT. The reset state (R139): what its registers read, and what QUANT and ENCODE do there. -/

namespace Sys2Proof.Machine

/-- R18, R139: every named register reads 0 after reset. -/
theorem readReg_reset (r : Reg) : readReg r State.reset = 0 := by
  cases r <;> rfl

/-- R18, R139: every register number reads 0 after reset, a reserved one too. -/
theorem readNumber_reset (num : BitVec 6) : readNumber num State.reset = 0 := by
  unfold readNumber
  split
  · rfl
  · exact readReg_reset _

/-- R139: with OP_N = 0 QUANT writes no element, so CBUF stays a draw. -/
theorem execQuant_reset : execQuant State.reset = .next State.reset :=
  if_neg (Nat.not_lt_zero nMax)

/-- R98, R103: past its role check ENCODE refuses an illegal image size. -/
theorem encodeWith_of_badImageSize {k : Bool} {s : State} (hrole : s.role ≠ .dec) (hsize : s.badImageSize = true) :
    encodeWith k s = raise .badOperand s := by
  rw [encodeWith, if_neg hrole, if_pos hsize]

/-- R139: with OP_W = OP_H = 0 ENCODE's size check fails. -/
theorem execEncode_reset : execEncode State.reset = .next { State.reset with result := .badOperand } :=
  encodeWith_of_badImageSize (by decide) rfl

/-- Settles O5: the registers by their map, the rest by R139's values in `State.reset`, and R139's two commands. -/
theorem resetState : Obligations.ResetState :=
  ⟨readNumber_reset, rfl, rfl, rfl, rfl, rfl, rfl, rfl, rfl, rfl, rfl, rfl, rfl, rfl, rfl, rfl, rfl, rfl, rfl,
    execQuant_reset, execEncode_reset⟩

end Sys2Proof.Machine
end

section
/-! SUPPORT. Unit commands and session commands (R147): a unit command's answer is the same whatever the session's state is,
and a session command keeps the buffers the units share. -/

namespace Sys2Proof.Machine

/-! The unit commands. -/

/-- The session state R147 names. -/
structure Session where
  frameCount : BitVec 64
  role : Role
  vctx : Vctx
  hs : Memory 8
  ls : Memory 8

/-- `s` with its session state replaced. -/
def State.withSession (x : Session) (s : State) : State :=
  { s with frameCount := x.frameCount, role := x.role, vctx := x.vctx, hs := x.hs, ls := x.ls }

/-- R147: a unit command's frame holds the whole session state. -/
theorem UnitFrame.session {s t : State} (h : UnitFrame s t) :
    t.frameCount = s.frameCount ∧ t.role = s.role ∧ t.vctx = s.vctx ∧ t.hs = s.hs ∧ t.ls = s.ls := by
  rw [UnitFrame] at h
  rw [h]
  exact ⟨rfl, rfl, rfl, rfl, rfl⟩

/-- Where `a` answers a next state, `b` answers the same with the session state `x` in it. -/
def SameApartFromSession (x : Session) (a b : Answer) : Prop := ∀ t, a = .next t → b = .next (t.withSession x)

theorem SameApartFromSession.raise (x : Session) (r : Result) (s : State) :
    SameApartFromSession x (raise r s) (raise r (s.withSession x)) :=
  fun _ h => (raise_next _ _ _).1 h ▸ rfl

theorem SameApartFromSession.succeed (x : Session) (s : State) :
    SameApartFromSession x (succeed s) (succeed (s.withSession x)) :=
  fun _ h => (succeed_next _ _).1 h ▸ rfl

/-- A check that does not depend on the session leads both to the same branch. -/
theorem SameApartFromSession.ite {x : Session} {a a' b b' : Answer} {c : Prop} [Decidable c]
    (ha : SameApartFromSession x a a') (hb : SameApartFromSession x b b') :
    SameApartFromSession x (if c then a else b) (if c then a' else b') := by
  split
  · exact ha
  · exact hb

/-- R147: no check and no result of a unit command reads the session's state. -/
theorem sameApartFromSession_exec {i : Instr} (hi : isUnitCommand i = true) (x : Session) (s : State) :
    SameApartFromSession x (exec i s) (exec i (s.withSession x)) := by
  cases i with
  | quant | dequant | rescale | unrescale | unfilter | fasm | isdepth | iskey => exact .ite (.raise x _ s) (.succeed x _)
  | filter => exact .ite (.raise x _ s) (.ite (.raise x _ s) (.succeed x _))
  | fparse =>
    refine .ite (.raise x _ s) ?_
    rw [show (s.withSession x).inputFrame = s.inputFrame from rfl]
    split
    · exact .raise x _ s
    · exact .succeed x _
  | sreset | encode | encodeK | decode => cases hi

/-! The session commands. -/

/-- The buffers R147 keeps from the session commands: CBUF, HBUF and LBUF. -/
def State.unitBuffers (s : State) : Memory 16 × Memory 8 × Memory 8 := (s.cbuf, s.hbuf, s.lbuf)

theorem claimRole_unitBuffers (r : Role) (s : State) : (claimRole r s).unitBuffers = s.unitBuffers := by
  rw [claimRole_eq]; rfl

theorem encodePayloads_unitBuffers (key : Bool) (s : State) :
    (encodePayloads key s).1.unitBuffers = s.unitBuffers := by
  rw [encodePayloads_frame]; rfl

/-- R147: ENCODE streams through HS and LS, not through the unit commands' buffers. -/
theorem encodeWith_unitBuffers {k : Bool} {s t : State} (h : encodeWith k s = .next t) :
    t.unitBuffers = s.unitBuffers := by
  obtain ⟨-, rfl⟩ | ⟨-, -, rfl⟩ | ⟨-, -, -, rfl⟩ := encodeWith_next h
  · rfl
  · rfl
  · exact (encodePayloads_unitBuffers (keyframe k s) _).trans (claimRole_unitBuffers .enc s)

/-- R147: DECODE streams through HS and LS too. -/
theorem execDecode_unitBuffers {s t : State} (h : execDecode s = .next t) : t.unitBuffers = s.unitBuffers := by
  have hclaim := claimRole_unitBuffers .dec s
  obtain ⟨-, rfl⟩ | ⟨-, -, rfl⟩ | ⟨-, -, -, ht⟩ | ⟨-, -, _, _, _, -, -, -, -, -, -, rfl⟩ := execDecode_next h
  · rfl
  · rfl
  · exact (congrArg State.unitBuffers ht).trans hclaim
  · exact hclaim

/-- R147: a session command writes none of CBUF, HBUF and LBUF. -/
theorem sessionCommand_unitBuffers {i : Instr} {s t : State} (hi : isUnitCommand i = false) (h : exec i s = .next t) :
    t.unitBuffers = s.unitBuffers := by
  cases i with
  | sreset => exact (succeed_next _ _).1 h ▸ rfl
  | encode | encodeK => exact encodeWith_unitBuffers h
  | decode => exact execDecode_unitBuffers h
  | quant | dequant | rescale | unrescale | filter | unfilter | fasm | fparse | isdepth | iskey => cases hi

/-- Settles O44: a unit command stays in `UnitFrame` and answers alike in every session; a session command keeps
`State.unitBuffers`. -/
theorem unitAndSessionCommandsAreIndependent : Obligations.UnitAndSessionCommandsAreIndependent := by
  refine ⟨fun i s t hi h => (unitAnswer_exec hi s t h).session, fun i s t fc ro v hs ls hi h => ?blind,
    fun i s t hi h => ?kept⟩
  case blind => exact sameApartFromSession_exec hi ⟨fc, ro, v, hs, ls⟩ s t h
  case kept => simpa only [State.unitBuffers, Prod.mk.injEq] using sessionCommand_unitBuffers hi h

end Sys2Proof.Machine
end

section
/-! SUPPORT. Who moves (R7, R19), and the host's moves statement by statement (R36, R55, R123, R144, R152). -/

namespace Sys2Proof.Machine

/-! Who moves. -/

/-- `s` with one host move of the BUSY time used up. -/
def State.ticked (s : State) : State := { s with delay := s.delay - 1 }

section Moves
variable {s : State} (hfault : s.faultRec = none)
include hfault

theorem step_eq_moveNext : step s = moveNext s := by
  rw [step, hfault]

/-- While BUSY = 0 the host moves. -/
theorem step_of_idle (hbusy : s.busy = false) : step s = hostMove s := by
  rw [step_eq_moveNext hfault, moveNext, State.coreMoves, spendDelay, hbusy]
  rfl

/-- While BUSY = 1 the core moves when no host move is to fall into the BUSY time (log 2). -/
theorem step_of_core (hbusy : s.busy = true) (hcore : s.delay = 0 ∨ s.prog = []) : step s = runCommand s := by
  have hmoves : s.coreMoves = true := by
    rw [State.coreMoves, hbusy]
    obtain h | h := hcore <;> simp [h]
  rw [step_eq_moveNext hfault, moveNext, if_pos hmoves]

/-- While BUSY = 1 a host move uses up one of those that fit into the BUSY time (log 2). -/
theorem step_of_busy {st : HostStmt} {rest : List HostStmt} (hbusy : s.busy = true) (hdelay : s.delay ≠ 0)
    (hprog : s.prog = st :: rest) : step s = hostMove s.ticked := by
  have hmoves : s.coreMoves = false := by simp [State.coreMoves, hdelay, hprog]
  have hspend : spendDelay s = s.ticked := if_pos hbusy
  rw [step_eq_moveNext hfault, moveNext, hmoves, hspend]
  rfl

end Moves

/-! Statements. -/

/-- `s` with the statements the host has left. -/
def State.withProg (s : State) (rest : List HostStmt) : State := { s with prog := rest }

section Statements
variable {s : State} {rest : List HostStmt}

theorem hostMove_nil (hprog : s.prog = []) : hostMove s = .next s := by
  rw [hostMove, hprog]

theorem hostMove_wr {num : BitVec 6} {v : Word} (hprog : s.prog = .wr num v :: rest) :
    hostMove s = if s.busy then .fault .hostProtocol else .next (writeNumber num v (s.withProg rest)) := by
  rw [hostMove, hprog]
  rfl

theorem hostMove_rd {num : BitVec 6} (hprog : s.prog = .rd num :: rest) :
    hostMove s = .next (hostRead num (s.withProg rest)) := by
  rw [hostMove, hprog]
  rfl

theorem hostMove_st_nil {sp : Space} {a : Nat} (hprog : s.prog = .st sp a [] :: rest) :
    hostMove s = .next (s.withProg rest) := by
  rw [hostMove, hprog]
  rfl

theorem hostMove_st_cons {sp : Space} {a : Nat} {v : Word} {vs : List Word} (hprog : s.prog = .st sp a (v :: vs) :: rest) :
    hostMove s =
      if s.busy then .fault .hostProtocol else hostStore sp a v (s.withProg (.st sp (a + 1) vs :: rest)) := by
  rw [hostMove, hprog]
  rfl

theorem hostMove_ld {sp : Space} {a b : Nat} (hprog : s.prog = .ld sp a b :: rest) :
    hostMove s =
      if a < b then hostLoad sp a (s.withProg (.ld sp (a + 1) b :: rest)) else .next (s.withProg rest) := by
  rw [hostMove, hprog]
  rfl

theorem hostMove_stSeen {sp : Space} {a n : Nat} (hprog : s.prog = .stSeen sp a n :: rest) :
    hostMove s = .next (s.withProg (.st sp a (s.seen.drop (s.seen.length - n)) :: rest)) := by
  rw [hostMove, hprog]
  rfl

theorem hostMove_mv {dst src : Space} {a b c : Nat} (hprog : s.prog = .mv dst a src b c :: rest) :
    hostMove s = .next (s.withProg (.ld src b c :: .stSeen dst a (c - b) :: rest)) := by
  rw [hostMove, hprog]
  rfl

theorem hostMove_wait (hprog : s.prog = .wait :: rest) :
    hostMove s = if s.busy then .next s else .next (s.withProg rest) := by
  rw [hostMove, hprog]
  rfl

theorem hostMove_blockReset (hprog : s.prog = .blockReset :: rest) :
    hostMove s = if s.busy then .fault .hostProtocol else .next (resetBlock (s.withProg rest)) := by
  rw [hostMove, hprog]
  rfl

end Statements

end Sys2Proof.Machine
end

section
/-! SUPPORT. The machine invariant (R6, R25, R27, R28): what it depends on, that every command keeps it, and that every move
of the host does. -/

namespace Sys2Proof.Machine

/-- The part of the state the invariant reads: the parameters, the encode in flight and the nine address spaces. -/
def State.storage (s : State) :
    Params × Option EncodeJob × (Memory 16 × Memory 16 × Memory 16) ×
      (Memory 8 × Memory 8 × Memory 8 × Memory 8 × Memory 8 × Memory 8) :=
  (s.params, s.encJob, (s.din, s.dout, s.cbuf), (s.hbuf, s.lbuf, s.fin, s.fout, s.hs, s.ls))

theorem State.Inv.of_storage_eq {s t : State} (h : s.Inv) (hsame : t.storage = s.storage) : t.Inv := by
  cases s
  cases t
  simp only [State.storage, Prod.mk.injEq] at hsame
  obtain ⟨rfl, rfl, ⟨rfl, rfl, rfl⟩, rfl, rfl, rfl, rfl, rfl, rfl⟩ := hsame
  exact ⟨{ h.memory with }, h.params, h.idle⟩

/-- A write that ends within the capacity keeps an address space sound. -/
theorem sound_setSeq {w cap : Nat} {m : Memory w} (h : m.wf ∧ m.within cap) (a : Nat) {vs : List (BitVec w)}
    (hfit : a + vs.length ≤ cap) : (m.setSeq a vs).wf ∧ (m.setSeq a vs).within cap :=
  ⟨wf_setSeq m a vs h.1, within_setSeq m a vs cap h.2 hfit⟩

theorem sound_fresh (w epoch cap : Nat) : (Memory.fresh w epoch).wf ∧ (Memory.fresh w epoch).within cap :=
  ⟨wf_fresh w epoch, within_fresh w epoch cap⟩

theorem State.Inv.endCommand {s : State} (h : s.Inv) (r : Result) : (endCommand r s).Inv := h.of_storage_eq rfl

theorem State.Inv.claimRole {s : State} (h : s.Inv) (r : Role) : (claimRole r s).Inv :=
  h.of_storage_eq (by rw [claimRole_eq]; rfl)

/-- An operand check that refuses, or lets a command go on with what the check has shown. -/
theorem Answers.check {P : State → Prop} {a b : Answer} {c : Prop} [Decidable c] (ha : Answers P a)
    (hb : ¬ c → Answers P b) : Answers P (if c then a else b) := by
  split
  · exact ha
  · next hc => exact hb hc

/-! The unit commands: each writes a sequence that its operand check bounds by the buffer's capacity. -/

section Units
variable {s : State} (h : s.Inv)
include h

theorem answersInv_raise (r : Result) : Answers State.Inv (raise r s) := .raise (h.endCommand r)

theorem answersInv_execQuant : Answers State.Inv (execQuant s) := by
  refine .check (answersInv_raise h _) fun hn => .succeed (.endCommand ?_ _)
  exact ⟨{ h.memory with cbuf := sound_setSeq h.memory.cbuf 0 (by simpa [capacityOf] using hn) }, h.params, h.idle⟩

theorem answersInv_execDequant : Answers State.Inv (execDequant s) := by
  refine .check (answersInv_raise h _) fun hn => .succeed (.endCommand ?_ _)
  exact ⟨{ h.memory with dout := sound_setSeq h.memory.dout 0 (by simpa [capacityOf] using hn) }, h.params, h.idle⟩

theorem answersInv_execRescale : Answers State.Inv (execRescale s) := by
  refine .check (answersInv_raise h _) fun hn => .succeed (.endCommand ?_ _)
  exact ⟨{ h.memory with
    cbuf := sound_setSeq h.memory.cbuf 0 (by simpa [capacityOf, length_rescale] using hn) }, h.params, h.idle⟩

theorem answersInv_execUnrescale : Answers State.Inv (execUnrescale s) := by
  refine .check (answersInv_raise h _) fun hn => .succeed (.endCommand ?_ _)
  exact ⟨{ h.memory with
    cbuf := sound_setSeq h.memory.cbuf 0 (by simpa [capacityOf, length_unrescale] using hn) }, h.params, h.idle⟩

theorem answersInv_execFilter : Answers State.Inv (execFilter s) := by
  refine .check (answersInv_raise h _) fun hpairs => .check (answersInv_raise h _) fun _ => .succeed (.endCommand ?_ _)
  obtain ⟨hn, -⟩ := (badPairCount_eq_false s).1 (Bool.not_eq_true _ ▸ hpairs)
  refine ⟨{ h.memory with
    hbuf := sound_setSeq h.memory.hbuf 0 ?hbuf
    lbuf := sound_setSeq h.memory.lbuf 0 ?lbuf }, h.params, h.idle⟩
  case hbuf => rw [length_filterHigh, length_getSeq, Nat.zero_add]; exact Nat.div_le_div_right hn
  case lbuf => rw [length_filterLow, length_getSeq, Nat.zero_add]; exact hn.trans (Nat.le_add_right _ _)

theorem answersInv_execUnfilter : Answers State.Inv (execUnfilter s) := by
  refine .check (answersInv_raise h _) fun hpairs => .succeed (.endCommand ?_ _)
  obtain ⟨hn, heven⟩ := (badPairCount_eq_false s).1 (Bool.not_eq_true _ ▸ hpairs)
  have hlen : (s.lbuf.getSeq 0 s.opCount).length = 2 * (s.hbuf.getSeq 0 (s.opCount / 2)).length := by
    rw [length_getSeq, length_getSeq]; omega
  exact ⟨{ h.memory with
    cbuf := sound_setSeq h.memory.cbuf 0 (by rw [length_unfilter _ _ hlen, length_getSeq, Nat.zero_add]; exact hn) },
    h.params, h.idle⟩

theorem answersInv_execFasm : Answers State.Inv (execFasm s) := by
  refine .check (answersInv_raise h _) fun hfit => .succeed (.endCommand ?_ _)
  obtain ⟨-, -, hcap⟩ := (badSections_eq_false s).1 (Bool.not_eq_true _ ▸ hfit)
  have hlen : 0 + s.operandFrame.length ≤ capacityOf s.params.frameCap .fout := by
    rw [Nat.zero_add, length_operandFrame]
    exact hcap
  generalize s.operandFrame = frame at hlen ⊢
  exact ⟨{ h.memory with fout := sound_setSeq h.memory.fout 0 hlen }, h.params, h.idle⟩

theorem answersInv_execFparse : Answers State.Inv (execFparse s) := by
  refine .ite (answersInv_raise h _) ?_
  split
  · exact answersInv_raise h _
  · exact .succeed (h.of_storage_eq rfl)

end Units

/-! The session commands. -/

theorem answersInv_execSreset {s : State} (h : s.Inv) : Answers State.Inv (execSreset s) :=
  .succeed ⟨{ h.memory with hs := sound_fresh 8 _ _, ls := sound_fresh 8 _ _ }, h.params, h.idle⟩

/-- R24, R38: the coder calls of an ENCODE of N samples write HS[0 .. N/2) and LS[0 .. N + N/2). -/
theorem State.Inv.encodePayloads {s : State} (h : s.Inv) (hn : s.opSamples ≤ nMax) (key : Bool) :
    (encodePayloads key s).1.Inv := by
  have hfit : s.opSamples + s.opSamples / 2 ≤ nMax + nMax / 2 := Nat.add_le_add hn (Nat.div_le_div_right hn)
  have hhs := sound_setSeq (vs := filterHigh s.rescaledImage.codes) h.memory.hs 0
    (by rw [length_filterHigh, length_rescaledImage, Nat.zero_add]; exact Nat.div_le_div_right hn)
  have hls : (Machine.encodePayloads key s).1.ls.wf ∧
      (Machine.encodePayloads key s).1.ls.within (capacityOf s.params.frameCap .ls) := by
    obtain ⟨hwf, hin⟩ := loadScratch_ls s.rescaledImage.codes s.opSamples s (capacityOf s.params.frameCap .ls)
      h.memory.ls.1 h.memory.ls.2 (length_rescaledImage s) hfit
    refine vcEncodeFinish_ls _ _ hwf hin fun job hjob => ?_
    cases hjob
    exact hfit
  rw [encodePayloads_frame]
  exact ⟨{ h.memory with hs := hhs, ls := hls }, h.params, rfl⟩

/-- R103: an emitted frame that fits FRAME_CAP fits FOUT. -/
theorem State.Inv.emitFrame {s : State} (h : s.Inv) (hdr : Header) (p : Payloads)
    (hcap : headerBytes + p.hi.length + p.lo.length ≤ s.params.frameCap) : (emitFrame hdr p s).Inv :=
  ⟨{ h.memory with
    fout := sound_setSeq h.memory.fout 0 (by rw [frameOf, length_assemble, Nat.zero_add]; exact hcap) },
    h.params, h.idle⟩

theorem answersInv_encodeWith {s : State} (h : s.Inv) (k : Bool) : Answers State.Inv (encodeWith k s) := by
  intro t ht
  obtain ⟨-, rfl⟩ | ⟨-, -, rfl⟩ | ⟨-, hsize, hcap, rfl⟩ := encodeWith_next ht
  · exact h.endCommand _
  · exact h.endCommand _
  · obtain ⟨⟨hw, hh⟩, -⟩ := (badImageSize_eq_false s).1 hsize
    have hpayloads := (h.claimRole .enc).encodePayloads (key := keyframe k s)
      (by simpa [State.opSamples] using legalDim_product hw hh)
    refine (hpayloads.emitFrame _ _ ?_).endCommand _
    rw [encodePayloads_frame]
    simpa using hcap

/-- R109: a delivered image of N samples fits LS and DOUT. -/
theorem State.Inv.deliverImage {s : State} (h : s.Inv) {hdr : Header} {plane : List Byte}
    (hn : hdr.w.toNat * hdr.h.toNat ≤ nMax) (heven : hdr.w.toNat * hdr.h.toNat % 2 = 0)
    (hplane : plane.length = hdr.w.toNat * hdr.h.toNat) : (deliverImage hdr plane s).Inv := by
  refine ⟨{ h.memory with
    ls := sound_setSeq h.memory.ls 0 ?ls
    dout := sound_setSeq h.memory.dout 0 ?dout }, h.params, h.idle⟩
  case ls => rw [hplane, Nat.zero_add]; exact hn.trans (Nat.le_add_right _ _)
  case dout =>
    rw [length_imageOf _ _ _ _ (by rw [length_getSeq, length_getSeq]; omega), length_getSeq, Nat.zero_add]
    exact hn

/-- R107, R109: the entropy decoder's N/2 bytes fit HS, and the video decoder's N bytes fit LS. -/
theorem answersInv_decodeParsed {s : State} (h : s.Inv) {f : List Byte} {hdr : Header}
    (hn : hdr.w.toNat * hdr.h.toNat ≤ nMax) : Answers State.Inv (decodeParsed f hdr s) := by
  refine .ite (answersInv_raise h _) (.check (answersInv_raise h _) fun hconsistent => ?_)
  obtain ⟨heven, hhub, -, -⟩ := (inconsistent_eq_false hdr).1 (Bool.not_eq_true _ ▸ hconsistent)
  split
  · exact answersInv_raise h _
  · next hs _ =>
    refine .check (answersInv_raise h _) fun hlen => ?_
    have hloaded : ({ s with hs := s.hs.setSeq 0 hs } : State).Inv :=
      ⟨{ h.memory with
        hs := sound_setSeq h.memory.hs 0
          (by rw [not_not.1 hlen, hhub, Nat.zero_add]; exact Nat.div_le_div_right hn) }, h.params, h.idle⟩
    have hcalled : (vcDecode (decodeJob f hdr) { s with hs := s.hs.setSeq 0 hs }).1.Inv := hloaded.of_storage_eq rfl
    unfold decodeLow
    dsimp only
    split
    · exact answersInv_raise hcalled _
    · next plane hplane => exact .succeed ((hcalled.deliverImage hn heven (vcDecode_length hplane)).endCommand _)

theorem answersInv_execDecode {s : State} (h : s.Inv) : Answers State.Inv (execDecode s) := by
  refine .ite (answersInv_raise h _) (.ite (answersInv_raise h _) ?_)
  unfold decodeFrame
  split
  · exact answersInv_raise (h.claimRole _) _
  · next hdr hparse =>
    obtain ⟨-, -, -, -, -, hw, hh⟩ := parse_header hparse
    exact answersInv_decodeParsed (h.claimRole _) (legalDim_product hw hh)

theorem answersInv_exec {s : State} (h : s.Inv) (i : Instr) : Answers State.Inv (exec i s) := by
  cases i with
  | sreset => exact answersInv_execSreset h
  | quant => exact answersInv_execQuant h
  | dequant => exact answersInv_execDequant h
  | rescale => exact answersInv_execRescale h
  | unrescale => exact answersInv_execUnrescale h
  | filter => exact answersInv_execFilter h
  | unfilter => exact answersInv_execUnfilter h
  | fasm => exact answersInv_execFasm h
  | fparse => exact answersInv_execFparse h
  | isdepth | iskey => exact .ite (answersInv_raise h _) (.succeed (h.of_storage_eq rfl))
  | encode => exact answersInv_encodeWith h false
  | encodeK => exact answersInv_encodeWith h true
  | decode => exact answersInv_execDecode h

/-! The host's moves. -/

theorem writeNumber_storage (num : BitVec 6) (v : Word) (s : State) : (writeNumber num v s).storage = s.storage := by
  unfold writeNumber
  split
  · rfl
  · next r _ => cases r <;> rfl

theorem observeOrDraw_storage (w : Nat) (v : Word) (s : State) : (observeOrDraw w v s).storage = s.storage := by
  unfold observeOrDraw
  split <;> rfl

theorem hostRead_storage (num : BitVec 6) (s : State) : (hostRead num s).storage = s.storage := by
  unfold hostRead
  split
  · rfl
  · exact observeOrDraw_storage _ _ s

/-- R27: a write of one element below the capacity. -/
theorem State.Inv.writeElement {s : State} (h : s.Inv) {sp : Space} {a : Nat} (ha : a < capacityOf s.params.frameCap sp)
    (v : Word) : (writeElement sp a v s).Inv := by
  cases sp with
  | din => exact ⟨{ h.memory with din := sound_setSeq h.memory.din a ha }, h.params, h.idle⟩
  | dout => exact ⟨{ h.memory with dout := sound_setSeq h.memory.dout a ha }, h.params, h.idle⟩
  | cbuf => exact ⟨{ h.memory with cbuf := sound_setSeq h.memory.cbuf a ha }, h.params, h.idle⟩
  | hbuf => exact ⟨{ h.memory with hbuf := sound_setSeq h.memory.hbuf a ha }, h.params, h.idle⟩
  | lbuf => exact ⟨{ h.memory with lbuf := sound_setSeq h.memory.lbuf a ha }, h.params, h.idle⟩
  | fin => exact ⟨{ h.memory with fin := sound_setSeq h.memory.fin a ha }, h.params, h.idle⟩
  | fout => exact ⟨{ h.memory with fout := sound_setSeq h.memory.fout a ha }, h.params, h.idle⟩
  | hs => exact ⟨{ h.memory with hs := sound_setSeq h.memory.hs a ha }, h.params, h.idle⟩
  | ls => exact ⟨{ h.memory with ls := sound_setSeq h.memory.ls a ha }, h.params, h.idle⟩

/-- R138, R139: block reset, whatever the state was, as long as FRAME_CAP is legal. -/
theorem inv_resetBlock {s : State} (h : s.params.Legal) : (resetBlock s).Inv :=
  ⟨⟨sound_fresh _ _ _, sound_fresh _ _ _, sound_fresh _ _ _, sound_fresh _ _ _, sound_fresh _ _ _, sound_fresh _ _ _,
    sound_fresh _ _ _, sound_fresh _ _ _, sound_fresh _ _ _⟩, h, rfl⟩

theorem Answers.next {P : State → Prop} {s : State} (h : P s) : Answers P (.next s) := by
  rintro _ ⟨⟩
  exact h

theorem Answers.fault {P : State → Prop} {r : Fault} : Answers P (.fault r) := by
  rintro _ ⟨⟩

theorem Answers.refused {P : State → Prop} {r : Refusal} : Answers P (.refused r) := by
  rintro _ ⟨⟩

theorem answersInv_hostStore {s : State} (h : s.Inv) (sp : Space) (a : Nat) (v : Word) :
    Answers State.Inv (hostStore sp a v s) := by
  unfold hostStore
  split
  · next hok =>
    simp only [hostReaches, Bool.and_eq_true, decide_eq_true_eq] at hok
    obtain ⟨⟨-, ha⟩, -⟩ := hok
    exact .next (h.writeElement ha v)
  · exact .refused

theorem answersInv_hostLoad {s : State} (h : s.Inv) (sp : Space) (a : Nat) : Answers State.Inv (hostLoad sp a s) :=
  .ite (.next (h.of_storage_eq (observeOrDraw_storage _ _ s))) .refused

/-- R34, R152: a move of the host. -/
theorem answersInv_hostMove {s : State} (h : s.Inv) : Answers State.Inv (hostMove s) := by
  have hprog (rest : List HostStmt) : (s.withProg rest).Inv := h.of_storage_eq rfl
  rcases hs : s.prog with _ | ⟨st, rest⟩
  · rw [hostMove_nil hs]
    exact .next h
  cases st with
  | wr num v =>
    rw [hostMove_wr hs]
    exact .ite .fault (.next ((hprog rest).of_storage_eq (writeNumber_storage num v _)))
  | rd num =>
    rw [hostMove_rd hs]
    exact .next ((hprog rest).of_storage_eq (hostRead_storage num _))
  | st sp a values =>
    cases values with
    | nil =>
      rw [hostMove_st_nil hs]
      exact .next (hprog rest)
    | cons v vs =>
      rw [hostMove_st_cons hs]
      exact .ite .fault (answersInv_hostStore (hprog _) sp a v)
  | ld sp a b =>
    rw [hostMove_ld hs]
    exact .ite (answersInv_hostLoad (hprog _) sp a) (.next (hprog rest))
  | stSeen sp a n =>
    rw [hostMove_stSeen hs]
    exact .next (hprog _)
  | mv dst a src b c =>
    rw [hostMove_mv hs]
    exact .next (hprog _)
  | wait =>
    rw [hostMove_wait hs]
    exact .ite (.next h) (.next (hprog rest))
  | blockReset =>
    rw [hostMove_blockReset hs]
    exact .ite .fault (.next (inv_resetBlock h.params))

theorem spendDelay_storage (s : State) : (spendDelay s).storage = s.storage := by
  unfold spendDelay
  split <;> rfl

/-- Settles O7: the core's move keeps the invariant command by command, the host's move statement by statement. -/
theorem stepKeepsTheMachineInvariant : Obligations.StepKeepsTheMachineInvariant := by
  intro s t h hstep
  obtain ⟨-, ⟨-, hrun⟩ | ⟨-, hmove⟩⟩ := step_next hstep
  · obtain ⟨i, -, hexec⟩ | ⟨-, rfl⟩ := runCommand_next hrun
    · exact answersInv_exec h i t hexec
    · exact h.endCommand _
  · exact answersInv_hostMove (h.of_storage_eq (spendDelay_storage s)) t hmove

/-- Settles O6: nothing is stored after reset, and FRAME_CAP is 26 and an unknown number within R6's bound. -/
theorem resetMeetsTheMachineInvariant : Obligations.ResetMeetsTheMachineInvariant := by
  have hcap : State.reset.params.Legal := by
    have := Config.frameCapAbove26.isLt
    simp only [Params.Legal, State.reset]
    omega
  exact ⟨⟨sound_fresh _ _ _, sound_fresh _ _ _, sound_fresh _ _ _, sound_fresh _ _ _, sound_fresh _ _ _, sound_fresh _ _ _,
    sound_fresh _ _ _, sound_fresh _ _ _, sound_fresh _ _ _⟩, hcap, rfl⟩

end Sys2Proof.Machine
end

section
/-! SUPPORT. Where rescaled codes lie (R71), and the rescaler's round trip (R74). -/

namespace Sys2Proof.Machine

/-- An element of a mapped vector, when the map keeps the sentinel. -/
theorem getD_map_of_zero {f : Half → Half} (h0 : f 0 = 0) (c : List Half) (i : Nat) :
    (c.map f).getD i 0 = f (c.getD i 0) := by
  conv_lhs => rw [← h0]
  exact List.getD_map ..

/-! One code, for ranges from 2 to 2047. -/

section Lossy
variable {mn mx v : Half} (hlow : 2 ≤ mx.toNat - mn.toNat + 1) (hhigh : mx.toNat - mn.toNat + 1 ≤ 2047)
include hlow hhigh

/-- R70, step 5 as a number. -/
theorem toNat_rescaleElement_lossy (h0 : v ≠ 0) (hv : v.toNat ≤ mx.toNat) :
    (rescaleElement mn mx v).toNat =
      ((v.toNat - mn.toNat) * 2047 + (mx.toNat - mn.toNat + 1) / 2) / (mx.toNat - mn.toNat + 1) + 1 := by
  rw [toNat_rescaleElement fun _ => hv]
  dsimp only
  rw [if_neg (by rw [← eq_zero_iff_toNat]; exact not_or.2 ⟨by omega, h0⟩), if_neg (by omega)]

theorem toNat_rescaleElement_mem_Icc (h0 : v ≠ 0) (hv : v.toNat ≤ mx.toNat) :
    1 ≤ (rescaleElement mn mx v).toNat ∧ (rescaleElement mn mx v).toNat ≤ 2047 := by
  rw [toNat_rescaleElement_lossy hlow hhigh h0 hv]
  exact ⟨Nat.le_add_left .., Nat.div_lt_of_lt_mul (by omega)⟩

theorem rescaleElement_min (h0 : mn ≠ 0) (hle : mn.toNat ≤ mx.toNat) : rescaleElement mn mx mn = 1 := by
  apply BitVec.eq_of_toNat_eq
  rw [toNat_rescaleElement_lossy hlow hhigh h0 hle, Nat.sub_self, Nat.zero_mul, Nat.zero_add,
    Nat.div_eq_of_lt (by omega)]
  rfl

/-- R71: the largest code reaches 2047 when half the range makes up for the range - 1 below 2047 steps. -/
theorem rescaleElement_max_eq_iff (h0 : mx ≠ 0) :
    rescaleElement mn mx mx = 2047 ↔ 1365 ≤ mx.toNat - mn.toNat + 1 := by
  obtain ⟨-, hle⟩ := toNat_rescaleElement_mem_Icc hlow hhigh h0 le_rfl
  rw [toNat_rescaleElement_lossy hlow hhigh h0 le_rfl] at hle
  rw [← BitVec.toNat_inj, toNat_rescaleElement_lossy hlow hhigh h0 le_rfl]
  have hreach := Nat.le_div_iff_mul_le (x := 2046) (k := mx.toNat - mn.toNat + 1)
    (y := (mx.toNat - mn.toNat) * 2047 + (mx.toNat - mn.toNat + 1) / 2) (Nat.succ_pos _)
  have h2047 : (2047 : Half).toNat = 2047 := rfl
  omega

end Lossy

/-- Settles O15: the image of each code, of the smallest and of the largest under step 5. -/
theorem rescaleOutputRange : Obligations.RescaleOutputRange := by
  intro c mn mx hmn hmx hmn0 hbound hlow hhigh i hi
  have hle : mn.toNat ≤ mx.toNat := (hbound mn hmn hmn0).2
  have hmx0 : mx ≠ 0 := by
    rw [Ne, eq_zero_iff_toNat] at hmn0 ⊢
    omega
  have hmem : c.getD i 0 ∈ c := by
    rw [List.getD_eq_getElem _ _ hi]
    exact List.getElem_mem hi
  rw [rescale_eq_map hmn hmx hmn0 hmx0 hbound, getD_map_of_zero (rescaleElement_zero mn mx)]
  refine ⟨fun h0 => toNat_rescaleElement_mem_Icc hlow hhigh h0 (hbound _ hmem h0).2, fun h0 => ?zero, fun hv => ?min,
    fun hv => ?max⟩
  case zero => rw [h0, rescaleElement_zero]
  case min => rw [hv, rescaleElement_min hlow hhigh hmn0 hle]
  case max => rw [hv, rescaleElement_max_eq_iff hlow hhigh hmx0]

/-! The round trip. -/

/-- A vector with a non-zero code has a smallest and a largest one. -/
theorem exists_min_max {c : List Half} (h : ∃ v ∈ c, v ≠ 0) :
    ∃ mn ∈ c, ∃ mx ∈ c, mn ≠ 0 ∧ mx ≠ 0 ∧ ∀ v ∈ c, v ≠ 0 → mn.toNat ≤ v.toNat ∧ v.toNat ≤ mx.toNat := by
  have hne : (c.toFinset.filter (· ≠ 0)).Nonempty := by
    obtain ⟨v, hv, h0⟩ := h
    exact ⟨v, Finset.mem_filter.2 ⟨List.mem_toFinset.2 hv, h0⟩⟩
  obtain ⟨mn, hmn, hmin⟩ := Finset.exists_min_image _ BitVec.toNat hne
  obtain ⟨mx, hmx, hmax⟩ := Finset.exists_max_image _ BitVec.toNat hne
  simp only [Finset.mem_filter, List.mem_toFinset, and_imp] at hmn hmx hmin hmax
  exact ⟨mn, hmn.1, mx, hmx.1, hmn.2, hmx.2, fun v hv h0 => ⟨hmin v hv h0, hmax v hv h0⟩⟩

theorem sideRange_of_le {mn mx : Half} (h : mn.toNat ≤ mx.toNat) :
    sideRange mn mx = ((mx.toNat - mn.toNat + 1 : Nat) : Int) := by
  rw [sideRange]
  omega

/-- R73 on one code, with side data a `rescale` gives. -/
theorem unrescaleElement_of_le {mn mx : Half} (h : mn.toNat ≤ mx.toNat) :
    unrescaleElement mn mx =
      let range := mx.toNat - mn.toNat + 1
      if 2048 ≤ range then id else if range ≤ 1 then unrescaleFlat mn else unrescaleCode mn range := by
  unfold unrescaleElement
  rw [sideRange_of_le h]
  norm_cast

/-- R74: step 5 moves a code's distance d by less than half a step, and R73's rounding takes it back. -/
theorem unrescale_rescale_distance {d range : Nat} (hpos : 0 < range) (hhigh : range ≤ 2047) :
    ((d * 2047 + range / 2) / range * range + 1023) / 2047 = d := by
  have hdiv := Nat.div_add_mod' (d * 2047 + range / 2) range
  have hmod := Nat.mod_lt (d * 2047 + range / 2) hpos
  generalize (d * 2047 + range / 2) / range * range = restored at hdiv ⊢
  omega

/-- R74 on one code between the smallest and the largest. -/
theorem unrescaleElement_rescaleElement {mn mx v : Half} (hmn0 : mn ≠ 0) (hmin : mn.toNat ≤ v.toNat)
    (hmax : v.toNat ≤ mx.toNat) : unrescaleElement mn mx (rescaleElement mn mx v) = v := by
  have h0 : v ≠ 0 := by
    rw [Ne, eq_zero_iff_toNat] at hmn0 ⊢
    omega
  rw [unrescaleElement_of_le (hmin.trans hmax)]
  dsimp only
  split_ifs with hwide hflat
  · rw [rescaleElement, if_pos hwide]; rfl
  · have hv : v = mn := BitVec.eq_of_toNat_eq (by omega)
    rw [rescaleElement, if_neg hwide, if_pos hflat, rescaleFlat, if_neg h0, hv]
    simp [unrescaleFlat]
  · have hcode := toNat_rescaleElement_lossy (mn := mn) (by omega) (by omega) h0 hmax
    have hcode0 : rescaleElement mn mx v ≠ 0 := by
      rw [Ne, eq_zero_iff_toNat, hcode]
      exact Nat.succ_ne_zero _
    rw [unrescaleCode, if_neg hcode0, hcode, Nat.add_sub_cancel, unrescale_rescale_distance (Nat.succ_pos _) (by omega),
      Nat.sub_add_cancel hmin, BitVec.ofNat_toNat, BitVec.setWidth_eq]

theorem unrescale_rescale (c : List Half) : unrescale (rescale c).codes (rescale c).min (rescale c).max = c := by
  by_cases h : ∃ v ∈ c, v ≠ 0
  · obtain ⟨mn, hmn, mx, hmx, hmn0, hmx0, hbound⟩ := exists_min_max h
    rw [rescale_eq_map hmn hmx hmn0 hmx0 hbound, unrescale_eq_map, List.map_map]
    refine (List.map_congr_left fun v hv => ?_).trans (List.map_id' c)
    by_cases h0 : v = 0
    · rw [h0, Function.comp, rescaleElement_zero, unrescaleElement_zero]
    · obtain ⟨hmin, hmax⟩ := hbound v hv h0
      exact unrescaleElement_rescaleElement hmn0 hmin hmax
  · have hzero : ∀ v ∈ c, v = 0 := by simpa using h
    rw [rescale_of_forall_eq_zero hzero, unrescale_eq_map]
    refine (List.map_congr_left fun v hv => ?_).trans (List.map_id' c)
    rw [hzero v hv, unrescaleElement_zero]

/-- Settles O16: the round trip code by code; and a code 2047 restores to the smallest code plus the range, rounded down
from range 1024 on. -/
theorem unrescaleUndoesRescale : Obligations.UnrescaleUndoesRescale := by
  refine ⟨unrescale_rescale, fun mn mx hlt hhigh hmx => ?overshoot⟩
  have hrestored : (unrescaleElement mn mx 2047).toNat =
      (2046 * (mx.toNat - mn.toNat + 1) + 1023) / 2047 + mn.toNat := by
    rw [unrescaleElement_of_le hlt.le]
    dsimp only
    rw [if_neg (by omega), if_neg (by omega), unrescaleCode, if_neg (by decide), BitVec.toNat_ofNat, Nat.mod_eq_of_lt]
    · rfl
    · change (2046 * _ + 1023) / 2047 + _ < _
      omega
  have hnext : (mx + 1).toNat = mx.toNat + 1 := by
    rw [BitVec.toNat_add]
    exact Nat.mod_eq_of_lt (Nat.succ_lt_succ hmx)
  rw [unrescale_eq_map, List.map_singleton, List.singleton_inj, ← BitVec.toNat_inj, hrestored, hnext]
  omega

end Sys2Proof.Machine
end

section
/-! SUPPORT. The parse of an assembled frame (R86, R87, R90). -/

namespace Sys2Proof.Machine

/-- R87: a frame that passes the five checks parses to its header. -/
theorem parse_of_checks {f : List Byte} (hmagic : byteAt f 0 = magic) (hhub : 2 ≤ (headerOf f).hub.toNat)
    (hsize : f.length = headerBytes + (headerOf f).hcb.toNat + (headerOf f).lcb.toNat)
    (hw : legalDim (headerOf f).w = true) (hh : legalDim (headerOf f).h = true) : parse f = .header (headerOf f) := by
  simp only [headerOf] at hhub hsize hw hh
  rw [parse, if_neg (by omega), if_neg (not_not_intro hmagic), if_neg (by omega), if_neg (not_not_intro hsize), hw, hh]
  rfl

section Assembled
variable {flags : BitVec 2} {fn w h mn mx : Half} {hub : Word} {hi lo : List Byte}

theorem highSection_assemble {hdr : Header} (hhcb : hdr.hcb.toNat = hi.length) :
    highSection (assemble flags fn w h mn mx hub hi lo) hdr = hi := by
  rw [highSection, hhcb, headerBytes, drop_assemble, List.take_left]

theorem lowSection_assemble {hdr : Header} (hhcb : hdr.hcb.toNat = hi.length) (hlcb : hdr.lcb.toNat = lo.length) :
    lowSection (assemble flags fn w h mn mx hub hi lo) hdr = lo := by
  rw [lowSection, hhcb, hlcb, headerBytes, ← List.drop_drop, drop_assemble, List.drop_left, List.take_length]

/-- R87: an assembled frame parses when its dimensions and HUB are legal and its sections' lengths fit their fields. -/
theorem parse_assemble (hw : legalDim w = true) (hh : legalDim h = true) (hhub : 2 ≤ hub.toNat)
    (hhi : hi.length < 2 ^ 32) (hlo : lo.length < 2 ^ 32) :
    parse (assemble flags fn w h mn mx hub hi lo) = .header (headerOf (assemble flags fn w h mn mx hub hi lo)) := by
  have hheader := headerOf_assemble flags fn w h mn mx hub hi lo
  refine parse_of_checks rfl ?hub ?size ?w ?h
  case hub => rwa [hheader]
  case size =>
    rw [hheader, length_assemble, BitVec.toNat_ofNat, BitVec.toNat_ofNat, Nat.mod_eq_of_lt hhi, Nat.mod_eq_of_lt hlo]
  case w => rwa [hheader]
  case h => rwa [hheader]

/-- R87: HUB below 2 is checked before the size and the dimensions. -/
theorem parse_assemble_of_hub_lt (hhub : hub.toNat < 2) :
    parse (assemble flags fn w h mn mx hub hi lo) = .error .corrupted := by
  have hfield : rd32 (assemble flags fn w h mn mx hub hi lo) 12 = hub :=
    congrArg Header.hub (headerOf_assemble flags fn w h mn mx hub hi lo)
  have hmagic : byteAt (assemble flags fn w h mn mx hub hi lo) 0 = magic := rfl
  rw [parse, if_neg (by rw [length_assemble]; omega), if_neg (not_not_intro hmagic), if_pos (by rwa [hfield])]

end Assembled

/-- Settles O26: the parse of an assembled frame and its two sections. -/
theorem parseRecoversTheAssembledFrame : Obligations.ParseRecoversTheAssembledFrame := by
  intro flags fn w h mn mx hub hi lo hw1 hw2 hh1 hh2 hhub hhi hlo
  have hhcb : (BitVec.ofNat 32 hi.length).toNat = hi.length := (BitVec.toNat_ofNat ..).trans (Nat.mod_eq_of_lt hhi)
  have hlcb : (BitVec.ofNat 32 lo.length).toNat = lo.length := (BitVec.toNat_ofNat ..).trans (Nat.mod_eq_of_lt hlo)
  have hparse := parse_assemble (flags := flags) (fn := fn) (mn := mn) (mx := mx) ((legalDim_iff w).2 ⟨hw1, hw2⟩)
    ((legalDim_iff h).2 ⟨hh1, hh2⟩) hhub hhi hlo
  rw [headerOf_assemble] at hparse
  exact ⟨_, hparse, rfl, highSection_assemble hhcb, lowSection_assemble hhcb hlcb⟩

end Sys2Proof.Machine
end

section
/-! SUPPORT. ENCODE and ENCODE.K (R98, R103): the answer past the checks, in the spec's terms: the job the encoder is handed,
its one answer, and the two payloads. -/

namespace Sys2Proof.Machine

/-- ENCODE's and ENCODE.K's common meaning. -/
theorem exec_eq_encodeWith {i : Instr} {k : Bool} (hi : i = .encode ∧ k = false ∨ i = .encodeK ∧ k = true) (s : State) :
    exec i s = encodeWith k s := by
  obtain ⟨rfl, rfl⟩ | ⟨rfl, rfl⟩ := hi <;> rfl

/-- The keyframe request of an encode word. -/
theorem exists_keyframe_request {i : Instr} (hi : i = .encode ∨ i = .encodeK) :
    ∃ k, i = .encode ∧ k = false ∨ i = .encodeK ∧ k = true := by
  obtain rfl | rfl := hi
  · exact ⟨false, .inl ⟨rfl, rfl⟩⟩
  · exact ⟨true, .inr ⟨rfl, rfl⟩⟩

/-- R103's check on the image size, on numbers. -/
theorem badImageSize_eq_false_iff (s : State) :
    s.badImageSize = false ↔ 1 ≤ s.op.w.toNat ∧ s.op.w.toNat ≤ 4096 ∧ 1 ≤ s.op.h.toNat ∧ s.op.h.toNat ≤ 4096 ∧
      s.op.w.toNat * s.op.h.toNat % 2 = 0 := by
  rw [badImageSize_eq_false, legalDim_iff, legalDim_iff, and_assoc, and_assoc, and_assoc]
  rfl

/-- R24: the chroma scratch the encoder is handed. -/
def State.chroma (s : State) : List Byte :=
  if s.params.chromaFill = .zero then List.replicate (s.opSamples / 2) 0
  else (List.range (s.opSamples / 2)).map (Config.chromaBefore s.draws)

/-- The number of the encoder's draw. -/
def State.encoderDraw (s : State) : Nat := if s.params.chromaFill = .zero then s.draws else s.draws + 1

/-- R45, R103: the job the encoder is handed. -/
def State.encoderJob (key : Bool) (s : State) : EncodeJob :=
  ⟨s.opVParams, s.op.w.toNat, s.op.h.toNat, codecOf s.op.type, key, filterLow s.rescaledImage.codes ++ s.chroma⟩

/-- The encoder's one answer. -/
def State.encoderAnswer (key : Bool) (s : State) : EncodeAnswer :=
  Config.vcEncode s.encoderDraw s.vctx (s.encoderJob key)

/-- The two payloads (R48, R103). -/
def State.payloads (key : Bool) (s : State) : Payloads :=
  ⟨ecCompress s.params (filterHigh s.rescaledImage.codes),
    if s.params.videoCoder = .ideal then filterLow s.rescaledImage.codes else (s.encoderAnswer key).bits⟩

theorem chromaHanded_opSamples (s : State) : chromaHanded s.opSamples s = s.chroma := by
  unfold chromaHanded State.chroma
  cases s.params.chromaFill <;> rfl

theorem drawsHanded_eq (s : State) : drawsHanded s = s.encoderDraw := by
  unfold drawsHanded State.encoderDraw
  cases s.params.chromaFill <;> rfl

theorem length_chroma (s : State) : s.chroma.length = s.opSamples / 2 := by
  rw [← chromaHanded_opSamples, length_chromaHanded]

/-- R45, R48: the bits of the codec's answer, whichever codec is attached. -/
theorem encodeAnswer_bits (p : Params) (draw : Nat) (ctx : Vctx) (job : EncodeJob) :
    (encodeAnswer p draw ctx job).bits =
      if p.videoCoder = .ideal then job.plane.take (job.width * job.height) else (Config.vcEncode draw ctx job).bits := by
  unfold encodeAnswer
  cases p.videoCoder <;> rfl

/-- The low plane is the first N bytes of the encoder's job. -/
theorem take_encoderJob_plane (key : Bool) (s : State) :
    (s.encoderJob key).plane.take ((s.encoderJob key).width * (s.encoderJob key).height) =
      filterLow s.rescaledImage.codes :=
  List.take_left' (by rw [length_filterLow, length_rescaledImage]; rfl)

/-- R103: the three coder calls in the spec's terms; what they leave in HS and LS is not architectural (R26). -/
theorem encodePayloads_eq_payloads (key : Bool) (s : State) :
    ∃ hs ls, encodePayloads key s =
      ({ s with
          hs := hs, ls := ls, vctx := (s.encoderAnswer key).ctx, encJob := none, draws := s.encoderDraw + 1 },
        s.payloads key) := by
  obtain ⟨hpayloads, hvctx, hdraws⟩ := encodePayloads_eq key s
  have hframe := encodePayloads_frame key s
  rw [hvctx, hdraws] at hframe
  rw [chromaHanded_opSamples, drawsHanded_eq] at hpayloads hframe
  have hbits := encodeAnswer_bits s.params s.encoderDraw s.vctx (s.encoderJob key)
  rw [take_encoderJob_plane] at hbits
  exact ⟨_, _, Prod.ext hframe (hpayloads.trans (congrArg (Payloads.mk _) hbits))⟩

/-- R98: past its role check ENCODE has taken the role ENC. -/
theorem claimRole_enc {s : State} (hrole : s.role ≠ .dec) : claimRole .enc s = { s with role := .enc } := by
  rw [claimRole_eq, claimRole_enc_role hrole]

/-- R98, R120: ENCODE's check on ROLE comes first. -/
theorem encodeWith_of_role {k : Bool} {s : State} (hrole : s.role = .dec) : encodeWith k s = raise .illegalCommand s :=
  if_pos hrole

/-- R103: the state a successful ENCODE leaves, whatever the coder calls left in HS and LS. -/
def State.encoded (key : Bool) (hs ls : Memory 8) (s : State) : State :=
  endCommand .success (emitFrame (s.encodeHeader key (s.payloads key)) (s.payloads key)
    { s with
      role := .enc, hs := hs, ls := ls, vctx := (s.encoderAnswer key).ctx, encJob := none, draws := s.encoderDraw + 1 })

/-- R103, R124: ENCODE past its checks on ROLE and the image size faults on a frame beyond FRAME_CAP and emits any other. -/
theorem encodeWith_accepted {k : Bool} {s : State} (hrole : s.role ≠ .dec) (hsize : s.badImageSize = false) :
    ∃ hs ls, encodeWith k s =
      if s.params.frameCap < 26 + (s.payloads (keyframe k s)).hi.length + (s.payloads (keyframe k s)).lo.length then
        .fault .frameOverflow
      else .next (s.encoded (keyframe k s) hs ls) := by
  obtain ⟨hs, ls, hcalls⟩ := encodePayloads_eq_payloads (keyframe k s) { s with role := .enc }
  refine ⟨hs, ls, ?_⟩
  rw [encodeWith, if_neg hrole, if_neg (by rw [hsize]; exact Bool.false_ne_true), claimRole_enc hrole, encodeImage, hcalls]
  rfl

/-- R103: ENCODE past every check. -/
theorem encodeWith_emits {k : Bool} {s : State} (hrole : s.role ≠ .dec) (hsize : s.badImageSize = false)
    (hfits : 26 + (s.payloads (keyframe k s)).hi.length + (s.payloads (keyframe k s)).lo.length ≤ s.params.frameCap) :
    ∃ hs ls, encodeWith k s = .next (s.encoded (keyframe k s) hs ls) := by
  obtain ⟨hs, ls, hexec⟩ := encodeWith_accepted (k := k) hrole hsize
  exact ⟨hs, ls, hexec.trans (if_neg (Nat.not_lt.2 hfits))⟩

/-- Settles O34: ROLE is checked before the image size. -/
theorem encodeRefusals : Obligations.EncodeRefusals := by
  intro i s hi
  obtain ⟨k, hk⟩ := exists_keyframe_request hi
  rw [exec_eq_encodeWith hk]
  refine ⟨encodeWith_of_role, fun hrole hbad => encodeWith_of_badImageSize hrole ?_⟩
  rw [← Bool.not_eq_false, badImageSize_eq_false_iff]
  omega

/-- Settles O35: the checks refuse, and past them the frame's length alone decides. -/
theorem encodeFaultsExactlyOnOverflow : Obligations.EncodeFaultsExactlyOnOverflow := by
  intro i k s hi n key r chroma draw job answer high low
  rw [exec_eq_encodeWith hi]
  by_cases hrole : s.role = .dec
  · rw [encodeWith_of_role hrole]
    exact ⟨iff_of_false (by rintro ⟨⟩) fun h => h.1 hrole, by rintro ⟨⟩⟩
  by_cases hsize : s.badImageSize = false
  · obtain ⟨hs, ls, hexec⟩ := encodeWith_accepted (k := k) hrole hsize
    obtain ⟨hw1, hw2, hh1, hh2, heven⟩ := (badImageSize_eq_false_iff s).1 hsize
    rw [hexec]
    split
    · next hlong => exact ⟨iff_of_true rfl ⟨hrole, hw1, hw2, hh1, hh2, heven, hlong⟩, by rintro ⟨⟩⟩
    · next hfits => exact ⟨iff_of_false (by rintro ⟨⟩) fun ⟨_, _, _, _, _, _, hlong⟩ => hfits hlong, by rintro ⟨⟩⟩
  · rw [encodeWith_of_badImageSize hrole (Bool.not_eq_false _ ▸ hsize)]
    refine ⟨iff_of_false (by rintro ⟨⟩) fun ⟨_, hw1, hw2, hh1, hh2, heven, _⟩ => hsize ?_, by rintro ⟨⟩⟩
    exact (badImageSize_eq_false_iff s).2 ⟨hw1, hw2, hh1, hh2, heven⟩

/-- The frame ENCODE emits. -/
def State.encodedFrame (key : Bool) (s : State) : List Byte := frameOf (s.encodeHeader key (s.payloads key)) (s.payloads key)

theorem length_encodedFrame (key : Bool) (s : State) :
    (s.encodedFrame key).length = 26 + (s.payloads key).hi.length + (s.payloads key).lo.length :=
  length_assemble ..

theorem encoded_eq (key : Bool) (hs ls : Memory 8) (s : State) :
    s.encoded key hs ls = { s with
      frameCount := s.frameCount + 1, role := .enc, fout := s.fout.setSeq 0 (s.encodedFrame key), hs := hs, ls := ls
      vctx := (s.encoderAnswer key).ctx, encJob := none, draws := s.encoderDraw + 1, result := .success, busy := false
      resp := ⟨BitVec.ofBool key, s.op.type, s.frameCount.setWidth 16, s.op.w, s.op.h, s.rescaledImage.min,
        s.rescaledImage.max, BitVec.ofNat 32 (s.opSamples / 2), BitVec.ofNat 32 (s.payloads key).hi.length,
        BitVec.ofNat 32 (s.payloads key).lo.length,
        BitVec.ofNat 32 (26 + (s.payloads key).hi.length + (s.payloads key).lo.length), s.resp.bool⟩ } := by
  rw [← length_encodedFrame]
  rfl

/-- Settles O32: the answer past the checks, whose frame stands at the start of FOUT. -/
theorem encodeEmitsOneFrame : Obligations.EncodeEmitsOneFrame := by
  intro i k s hi hrole hw1 hw2 hh1 hh2 heven n key r chroma draw job answer high low f hcap
  have hsize := (badImageSize_eq_false_iff s).2 ⟨hw1, hw2, hh1, hh2, heven⟩
  obtain ⟨hs, ls, hexec⟩ := encodeWith_emits (k := k) hrole hsize hcap
  exact ⟨_, (exec_eq_encodeWith hi s).trans hexec, encoded_eq key hs ls s, length_chroma s, length_encodedFrame key s,
    get_setSeq_zero s.fout f⟩

/-- R48: with the stub coders the payloads are the filter's two streams. -/
theorem payloads_of_stubCoders {s : State} (hec : s.params.entropyCoder = .identity)
    (hvc : s.params.videoCoder = .ideal) (key : Bool) :
    s.payloads key = ⟨filterHigh s.rescaledImage.codes, filterLow s.rescaledImage.codes⟩ := by
  rw [State.payloads, if_pos hvc, ecCompress, hec]

/-- Settles O33: `State.encoded`, with the payloads of the stub coders. -/
theorem encodeWithStubCoders : Obligations.EncodeWithStubCoders := by
  intro i k s hi hec hvc hrole hw1 hw2 hh1 hh2 heven n key r hcap
  have hsize := (badImageSize_eq_false_iff s).2 ⟨hw1, hw2, hh1, hh2, heven⟩
  have hpayloads : s.payloads key = ⟨filterHigh r.codes, filterLow r.codes⟩ := payloads_of_stubCoders hec hvc key
  have hcodes : r.codes.length = n := length_rescaledImage s
  have hhigh : (s.payloads key).hi.length = n / 2 := by rw [hpayloads, length_filterHigh, hcodes]
  have hlow : (s.payloads key).lo.length = n := by rw [hpayloads, length_filterLow, hcodes]
  have hlen := length_encodedFrame key s
  rw [hhigh, hlow] at hlen
  obtain ⟨hs, ls, hexec⟩ := encodeWith_emits (k := k) hrole hsize (by rwa [← hhigh, ← hlow] at hcap)
  refine ⟨_, (exec_eq_encodeWith hi s).trans hexec, ?state, (getSeq_setSeq _ _ _ _ hlen.symm).trans ?frame⟩
  case state =>
    have hstate := encoded_eq key hs ls s
    rw [hhigh, hlow] at hstate
    exact hstate
  case frame =>
    rw [State.encodedFrame, hpayloads]
    rfl

end Sys2Proof.Machine
end

section
/-! SUPPORT. The frame a successful ENCODE leaves in FOUT, as a parser reads it (R87, R112 S5). -/

namespace Sys2Proof.Machine

/-- R98, R103: a successful ENCODE passed every check. -/
theorem encodeWith_eq_encoded {k : Bool} {s t : State} (h : encodeWith k s = .next t) (hok : t.result = .success) :
    s.badImageSize = false ∧
    26 + (s.payloads (keyframe k s)).hi.length + (s.payloads (keyframe k s)).lo.length ≤ s.params.frameCap ∧
    ∃ hs ls, t = s.encoded (keyframe k s) hs ls := by
  by_cases hrole : s.role = .dec
  · rw [encodeWith_of_role hrole, raise_next] at h
    subst h
    cases hok
  by_cases hsize : s.badImageSize = false
  · obtain ⟨hs, ls, hexec⟩ := encodeWith_accepted (k := k) hrole hsize
    rw [hexec] at h
    split at h
    · cases h
    · next hfits => exact ⟨hsize, Nat.not_lt.1 hfits, hs, ls, (Host.Outcome.next.inj h).symm⟩
  · rw [encodeWith_of_badImageSize hrole (Bool.not_eq_false _ ▸ hsize), raise_next] at h
    subst h
    cases hok

/-- R86: a header's two flags are the low bits of the Flags byte. -/
theorem extractLsb'_flagPair (key hevc : BitVec 1) :
    (flagPair key hevc).extractLsb' 0 1 = key ∧ (flagPair key hevc).extractLsb' 1 1 = hevc := by
  revert key hevc
  decide

/-- R86, R87: a header that gives the payloads' lengths is read back from its frame. -/
theorem headerOf_frameOf {hdr : Header} {p : Payloads} (hhcb : hdr.hcb.toNat = p.hi.length)
    (hlcb : hdr.lcb.toNat = p.lo.length) : headerOf (frameOf hdr p) = hdr := by
  obtain ⟨hkey, hhevc⟩ := extractLsb'_flagPair hdr.key hdr.hevc
  rw [frameOf, headerOf_assemble, hkey, hhevc, ← hhcb, ← hlcb]
  simp only [BitVec.ofNat_toNat, BitVec.setWidth_eq]

/-- R87: a frame parses to its header when the header is legal and gives the payloads' lengths. -/
theorem parse_frameOf {hdr : Header} {p : Payloads} (hw : legalDim hdr.w = true) (hh : legalDim hdr.h = true)
    (hhub : 2 ≤ hdr.hub.toNat) (hhcb : hdr.hcb.toNat = p.hi.length) (hlcb : hdr.lcb.toNat = p.lo.length) :
    parse (frameOf hdr p) = .header hdr :=
  (parse_assemble hw hh hhub (hhcb ▸ hdr.hcb.isLt) (hlcb ▸ hdr.lcb.isLt)).trans
    (congrArg Parsed.header (headerOf_frameOf hhcb hlcb))

/-- R6, R103: HUB of an image of legal size. -/
theorem toNat_encodeHeader_hub {s : State} (hsize : s.badImageSize = false) (key : Bool) (p : Payloads) :
    (s.encodeHeader key p).hub.toNat = s.opSamples / 2 := by
  obtain ⟨⟨hw, hh⟩, -⟩ := (badImageSize_eq_false s).1 hsize
  have hmax : s.opSamples ≤ 16777216 := legalDim_product hw hh
  exact (BitVec.toNat_ofNat ..).trans (Nat.mod_eq_of_lt (by omega))

section Emitted
variable {s : State} {key : Bool} (hlegal : s.params.Legal)
  (hfits : 26 + (s.payloads key).hi.length + (s.payloads key).lo.length ≤ s.params.frameCap)
include hlegal hfits

/-- R103: FOUT[0 .. R_LEN) is the emitted frame. -/
theorem getSeq_encoded (hs ls : Memory 8) :
    (s.encoded key hs ls).fout.getSeq 0 (s.encoded key hs ls).resp.len.toNat = s.encodedFrame key := by
  refine getSeq_emitFrame (s.encodeHeader key (s.payloads key)) (s.payloads key) _ ?_
  have hlen := length_encodedFrame key s
  rw [State.encodedFrame] at hlen
  have := hlegal.2
  omega

/-- R103: the sections' lengths fit their fields. -/
theorem toNat_encodeHeader_lengths :
    (s.encodeHeader key (s.payloads key)).hcb.toNat = (s.payloads key).hi.length ∧
    (s.encodeHeader key (s.payloads key)).lcb.toNat = (s.payloads key).lo.length := by
  have := hlegal.2
  exact ⟨(BitVec.toNat_ofNat ..).trans (Nat.mod_eq_of_lt (by omega)),
    (BitVec.toNat_ofNat ..).trans (Nat.mod_eq_of_lt (by omega))⟩

/-- R87, R103: from four samples on the emitted frame parses to the header ENCODE reports. -/
theorem parse_encodedFrame (hsize : s.badImageSize = false) (hn : 4 ≤ s.opSamples) :
    parse (s.encodedFrame key) = .header (s.encodeHeader key (s.payloads key)) := by
  obtain ⟨⟨hw, hh⟩, -⟩ := (badImageSize_eq_false s).1 hsize
  obtain ⟨hhcb, hlcb⟩ := toNat_encodeHeader_lengths hlegal hfits
  exact parse_frameOf hw hh (by rw [toNat_encodeHeader_hub hsize]; omega) hhcb hlcb

end Emitted

/-- Settles O46: with two samples HUB is 1, which the parser refuses. -/
theorem twoSampleFramesNeverParse : Obligations.TwoSampleFramesNeverParse := by
  intro i s t hi hlegal hn hexec hok
  obtain ⟨k, hk⟩ := exists_keyframe_request hi
  rw [exec_eq_encodeWith hk] at hexec
  obtain ⟨hsize, hfits, hs, ls, rfl⟩ := encodeWith_eq_encoded hexec hok
  rw [getSeq_encoded hlegal hfits]
  refine parse_assemble_of_hub_lt ?_
  rw [toNat_encodeHeader_hub hsize, State.opSamples, hn]
  decide

end Sys2Proof.Machine
end

section
/-! SUPPORT. DECODE (R98, R109): its answer at each check, in order, and the image it delivers. -/

namespace Sys2Proof.Machine

/-! EC-1 and EC-2 (R43). -/

theorem ecDecompress_length {p : Params} {src y : List Byte} {n : Nat} (h : ecDecompress p src n = some y) :
    y.length = n := by
  unfold ecDecompress at h
  split at h
  · split at h
    · next hlen => cases h; exact hlen
    · cases h
  · exact beq_iff_eq.1 (Option.filter_eq_some_iff.1 h).2

theorem ecDecompress_ecCompress {p : Params} {x : List Byte} (h : ecCompress p x ≠ []) :
    ecDecompress p (ecCompress p x) x.length = some x := by
  cases hcoder : p.entropyCoder with
  | identity => simp [ecCompress, ecDecompress, hcoder]
  | open_ =>
    simp only [ecCompress, ecDecompress, hcoder] at h ⊢
    split at h
    · next hraw =>
      rw [if_pos hraw, hraw]
      exact Option.filter_some_pos (beq_iff_eq.2 rfl)
    · exact absurd rfl h

/-- Settles O45: EC-1 by the port's check on the length, EC-2 by its check on the round trip. -/
theorem entropyCoderLaws : Obligations.EntropyCoderLaws :=
  ⟨fun _ _ _ _ => ecDecompress_length, fun _ _ => ecDecompress_ecCompress⟩

/-! The checks, in order. -/

/-- R98: a session past DECODE's role check. -/
def State.decoding (s : State) : State := { s with role := .dec }

/-- The entropy decoder's answer at the start of HS. -/
def State.withHigh (hs : List Byte) (s : State) : State := { s with hs := s.hs.setSeq 0 hs }

theorem claimRole_dec {s : State} (hrole : s.role ≠ .enc) : claimRole .dec s = s.decoding := by
  rw [claimRole_eq, claimRole_dec_role hrole]
  rfl

/-- R98, R120: DECODE's check on ROLE comes first. -/
theorem execDecode_of_role {s : State} (hrole : s.role = .enc) : execDecode s = raise .illegalCommand s :=
  if_pos hrole

/-- R109, R120: then its check on OP_FLEN. -/
theorem execDecode_of_frameLength {s : State} (hrole : s.role ≠ .enc) (hlen : s.params.frameCap < s.op.flen.toNat) :
    execDecode s = raise .badOperand s :=
  (if_neg hrole).trans (if_badFrameLength_of_lt hlen _ _)

section Frame
variable {s : State} (hrole : s.role ≠ .enc) (hlen : s.op.flen.toNat ≤ s.params.frameCap)
include hrole hlen

theorem execDecode_eq_decodeFrame : execDecode s = decodeFrame s.decoding := by
  rw [execDecode, if_neg hrole, if_badFrameLength_of_le hlen, claimRole_dec hrole]

/-- R109: then the parse. -/
theorem execDecode_of_error {e : Result} (hparse : parse s.inputFrame = .error e) :
    execDecode s = raise e s.decoding := by
  have hdecoding : parse s.decoding.inputFrame = .error e := hparse
  rw [execDecode_eq_decodeFrame hrole hlen, decodeFrame, hdecoding]

theorem execDecode_of_header {hdr : Header} (hparse : parse s.inputFrame = .header hdr) :
    execDecode s = decodeParsed s.inputFrame hdr s.decoding := by
  have hdecoding : parse s.decoding.inputFrame = .header hdr := hparse
  rw [execDecode_eq_decodeFrame hrole hlen, decodeFrame, hdecoding]
  rfl

end Frame

section Parsed
variable {f : List Byte} {hdr : Header} {s : State}

/-- R105: a session's first frame must be a keyframe. -/
theorem decodeParsed_of_missing (hkey : hdr.key = 0) (hfirst : s.frameCount = 0) :
    decodeParsed f hdr s = raise .missingFrame s :=
  if_pos ⟨hkey, hfirst⟩

variable (hkey : hdr.key = 1 ∨ s.frameCount ≠ 0)
include hkey

theorem not_missing : ¬ (hdr.key = 0 ∧ s.frameCount = 0) := by
  rintro ⟨h0, hfirst⟩
  obtain h1 | hlater := hkey
  · exact absurd (h0.symm.trans h1) (by decide)
  · exact hlater hfirst

/-- R107: then the consistency checks. -/
theorem decodeParsed_of_inconsistent (hbad : inconsistent hdr = true) : decodeParsed f hdr s = raise .corrupted s :=
  (if_neg (not_missing hkey)).trans (if_pos hbad)

variable (hconsistent : inconsistent hdr = false)
include hconsistent

/-- R110: then the entropy decoder. -/
theorem decodeParsed_of_ec_failure (hec : ecDecompress s.params (highSection f hdr) hdr.hub.toNat = none) :
    decodeParsed f hdr s = raise .corrupted s := by
  rw [decodeParsed, if_neg (not_missing hkey), if_neg (Bool.not_eq_true _ ▸ hconsistent), hec]

/-- R110: the video decoder comes last. -/
theorem decodeParsed_of_ec_success {hs : List Byte}
    (hec : ecDecompress s.params (highSection f hdr) hdr.hub.toNat = some hs) :
    decodeParsed f hdr s = decodeLow f hdr (s.withHigh hs) := by
  rw [decodeParsed, if_neg (not_missing hkey), if_neg (Bool.not_eq_true _ ▸ hconsistent), hec]
  exact if_neg (not_not_intro (ecDecompress_length hec))

end Parsed

/-! The video decoder. -/

/-- R46, R48: the plane of the codec's answer, whichever codec is attached; one that is not N bytes long is a failure. -/
theorem decodeAnswer_plane (p : Params) (draw : Nat) (ctx : Vctx) (job : DecodeJob) :
    (decodeAnswer p draw ctx job).plane =
      (if p.videoCoder = .ideal then some job.bits else (Config.vcDecode draw ctx job).plane).filter
        (·.length == job.width * job.height) := by
  unfold decodeAnswer
  cases p.videoCoder with
  | ideal =>
    dsimp only
    rw [if_pos rfl, Option.filter_some]
    exact if_congr beq_iff_eq.symm rfl rfl
  | open_ => rfl

theorem decodeAnswer_plane_eq_some {p : Params} {draw : Nat} {ctx : Vctx} {job : DecodeJob} {plane : List Byte}
    (h : (if p.videoCoder = .ideal then some job.bits else (Config.vcDecode draw ctx job).plane) = some plane)
    (hlen : plane.length = job.width * job.height) : (decodeAnswer p draw ctx job).plane = some plane := by
  rw [decodeAnswer_plane, h]
  exact Option.filter_some_pos (beq_iff_eq.2 hlen)

theorem decodeAnswer_plane_eq_none {p : Params} {draw : Nat} {ctx : Vctx} {job : DecodeJob}
    (h : ∀ plane, (if p.videoCoder = .ideal then some job.bits else (Config.vcDecode draw ctx job).plane) = some plane →
      plane.length ≠ job.width * job.height) : (decodeAnswer p draw ctx job).plane = none := by
  rw [decodeAnswer_plane, Option.filter_eq_none_iff]
  exact fun plane hplane => mt beq_iff_eq.1 (h plane hplane)

/-- R107 on numbers, negated. -/
theorem inconsistent_eq_true (hdr : Header) :
    inconsistent hdr = true ↔ (hdr.w.toNat * hdr.h.toNat) % 2 = 1 ∨
      hdr.hub.toNat ≠ hdr.w.toNat * hdr.h.toNat / 2 ∨ hdr.hcb = 0 ∨ hdr.lcb = 0 := by
  simp [inconsistent, or_assoc]

/-- The state both decoders leave: ROLE taken, the high stream in HS, VCTX as the video decoder's one answer has it. -/
def State.afterDecoders (hdr : Header) (hs : List Byte) (s : State) : State :=
  { s with
    role := .dec, hs := s.hs.setSeq 0 hs
    vctx := (Config.vcDecode s.draws s.vctx (decodeJob s.inputFrame hdr)).ctx, draws := s.draws + 1 }

theorem vcDecode_afterDecoders (hdr : Header) (hs : List Byte) (s : State) :
    vcDecode (decodeJob s.inputFrame hdr) (s.decoding.withHigh hs) =
      (s.afterDecoders hdr hs, (decodeAnswer s.params s.draws s.vctx (decodeJob s.inputFrame hdr)).plane) := by
  rw [vcDecode, decodeAnswer_ctx]
  rfl

section Decoders
variable {s : State} {hdr : Header} {hs : List Byte} (hrole : s.role ≠ .enc)
  (hlen : s.op.flen.toNat ≤ s.params.frameCap) (hparse : parse s.inputFrame = .header hdr)
  (hkey : hdr.key = 1 ∨ s.frameCount ≠ 0) (hconsistent : inconsistent hdr = false)
  (hec : ecDecompress s.params (highSection s.inputFrame hdr) hdr.hub.toNat = some hs)
include hrole hlen hparse hkey hconsistent hec

/-- R109, R110: past every check and the entropy decoder, DECODE is the video decoder's. -/
theorem execDecode_of_ec_success : execDecode s = decodeLow s.inputFrame hdr (s.decoding.withHigh hs) := by
  rw [execDecode_of_header hrole hlen hparse, decodeParsed_of_ec_success (s := s.decoding) hkey hconsistent hec]

/-- R109: the video decoder fails. -/
theorem execDecode_of_no_plane
    (hplane : (decodeAnswer s.params s.draws s.vctx (decodeJob s.inputFrame hdr)).plane = none) :
    execDecode s = raise .corrupted (s.afterDecoders hdr hs) := by
  rw [execDecode_of_ec_success hrole hlen hparse hkey hconsistent hec, decodeLow, vcDecode_afterDecoders, hplane]

/-- R109: both decoders answer. -/
theorem execDecode_of_plane {plane : List Byte}
    (hplane : (decodeAnswer s.params s.draws s.vctx (decodeJob s.inputFrame hdr)).plane = some plane) :
    execDecode s = succeed (deliverImage hdr plane (s.afterDecoders hdr hs)) := by
  rw [execDecode_of_ec_success hrole hlen hparse hkey hconsistent hec, decodeLow, vcDecode_afterDecoders, hplane]

end Decoders

/-- Settles O39: each check in its order, with what is left when it fails. -/
theorem decodeErrorsInOrder : Obligations.DecodeErrorsInOrder := by
  intro s f
  refine ⟨execDecode_of_role, execDecode_of_frameLength, fun hrole hlen =>
    ⟨fun e hparse => execDecode_of_error hrole hlen hparse, fun hdr hparse => ?_⟩⟩
  intro n job answer
  have hexec : exec .decode s = decodeParsed f hdr s.decoding := execDecode_of_header hrole hlen hparse
  refine ⟨fun hkey hfirst => ?missing, fun hkey => ⟨fun hbad => ?inconsistent, fun heven hhub hhcb hlcb => ?decoders⟩⟩
  case missing => exact hexec.trans (decodeParsed_of_missing (s := s.decoding) hkey hfirst)
  case inconsistent =>
    exact hexec.trans (decodeParsed_of_inconsistent (s := s.decoding) hkey ((inconsistent_eq_true hdr).2 hbad))
  case decoders =>
    have hconsistent := (inconsistent_eq_false hdr).2 ⟨heven, hhub, hhcb, hlcb⟩
    refine ⟨fun hec => ?entropy, fun hs hec _ hplane => ?video⟩
    case entropy => exact hexec.trans (decodeParsed_of_ec_failure (s := s.decoding) hkey hconsistent hec)
    case video =>
      have hnone := decodeAnswer_plane_eq_none (job := decodeJob f hdr) hplane
      exact ⟨_, execDecode_of_no_plane hrole hlen hparse hkey hconsistent hec hnone, rfl⟩

/-! The image. -/

/-- OP_FLEN as the length of a frame. -/
theorem ofNat_opFrameLength (s : State) : BitVec.ofNat 32 s.opFrameLength = s.op.flen :=
  (BitVec.ofNat_toNat ..).trans (BitVec.setWidth_eq _)

/-- R109: what a delivered image changes, with the response registers. -/
theorem deliverImage_eq (hdr : Header) (plane : List Byte) (s : State) :
    deliverImage hdr plane s = { s with
      ls := (deliverImage hdr plane s).ls, dout := (deliverImage hdr plane s).dout, frameCount := s.frameCount + 1
      resp := ⟨hdr.key, hdr.hevc, hdr.fn, hdr.w, hdr.h, hdr.min, hdr.max, hdr.hub, hdr.hcb, hdr.lcb, s.op.flen,
        s.resp.bool⟩ } := by
  rw [← ofNat_opFrameLength]
  rfl

/-- R109: DOUT of a delivered image, with the high stream `hs` at the start of HS. -/
theorem get_deliverImage_dout {s : State} {hdr : Header} {hs plane : List Byte}
    (hhs : s.hs.getSeq 0 (hdr.w.toNat * hdr.h.toNat / 2) = hs) (hplane : plane.length = hdr.w.toNat * hdr.h.toNat)
    (heven : hdr.w.toNat * hdr.h.toNat % 2 = 0) (i : Nat) :
    (deliverImage hdr plane s).dout.get i =
      if i < hdr.w.toNat * hdr.h.toNat then dequant ((unrescale (unfilter hs plane) hdr.min hdr.max).getD i 0)
      else s.dout.get i := by
  have hdout : (deliverImage hdr plane s).dout = s.dout.setSeq 0 (imageOf hs plane hdr.min hdr.max) := by
    rw [← hhs]
    exact congrArg (fun ls => s.dout.setSeq 0 (imageOf _ ls hdr.min hdr.max)) (getSeq_setSeq s.ls 0 plane _ hplane.symm)
  have hlen : plane.length = 2 * hs.length := by rw [← hhs, length_getSeq]; omega
  rw [hdout, get_setSeq_zero, length_imageOf hs plane _ _ hlen, hplane]
  exact if_congr Iff.rfl (getD_map_of_zero (f := dequant) rfl _ i) rfl

/-- R109, R110: the image DECODE delivers. -/
theorem get_decoded_dout {s : State} {hdr : Header} {hs plane : List Byte} (hconsistent : inconsistent hdr = false)
    (hhs : hs.length = hdr.hub.toNat) (hplane : plane.length = hdr.w.toNat * hdr.h.toNat) (i : Nat) :
    (deliverImage hdr plane (s.afterDecoders hdr hs)).dout.get i =
      if i < hdr.w.toNat * hdr.h.toNat then dequant ((unrescale (unfilter hs plane) hdr.min hdr.max).getD i 0)
      else s.dout.get i := by
  obtain ⟨heven, hhub, -, -⟩ := (inconsistent_eq_false hdr).1 hconsistent
  exact get_deliverImage_dout (getSeq_setSeq _ _ _ _ (by rw [hhs, hhub])) hplane heven i

/-- Settles O37: the delivered image. -/
theorem decodeDeliversTheImage : Obligations.DecodeDeliversTheImage := by
  intro s hdr hs plane f n job answer hrole hlen hparse hkey heven hhub hhcb hlcb hec hhs hplane hn
  have hconsistent := (inconsistent_eq_false hdr).2 ⟨heven, hhub, hhcb, hlcb⟩
  have hsome := decodeAnswer_plane_eq_some (job := decodeJob f hdr) hplane hn
  refine ⟨_, execDecode_of_plane hrole hlen hparse hkey hconsistent hec hsome, ?state, get_decoded_dout hconsistent hhs hn⟩
  exact congrArg (endCommand .success) (deliverImage_eq hdr plane (s.afterDecoders hdr hs))

/-- R87, R90: the sections of a frame that parses have the lengths of its header. -/
theorem length_sections {f : List Byte} {hdr : Header} (hparse : parse f = .header hdr) :
    (highSection f hdr).length = hdr.hcb.toNat ∧ (lowSection f hdr).length = hdr.lcb.toNat := by
  obtain ⟨-, -, -, -, hsize, -, -⟩ := parse_header hparse
  rw [highSection, lowSection, List.length_take, List.length_take, List.length_drop, List.length_drop]
  omega

/-- Settles O38: with the stub coders both decoders answer the frame's sections. -/
theorem decodeWithStubCoders : Obligations.DecodeWithStubCoders := by
  intro s hdr f n hec hvc hrole hlen hparse hkey heven hhub hhcb hlcb
  obtain ⟨hhigh, hlow⟩ := length_sections hparse
  obtain ⟨-, -, -, hhub2, -, -, -⟩ := parse_header hparse
  have hconsistent := (inconsistent_eq_false hdr).2 ⟨heven, hhub, by rw [Ne, eq_zero_iff_toNat]; omega,
    by rw [Ne, eq_zero_iff_toNat]; omega⟩
  have hentropy : ecDecompress s.params (highSection f hdr) hdr.hub.toNat = some (highSection f hdr) := by
    rw [ecDecompress, hec]
    exact if_pos (by rw [hhigh, hhcb, hhub])
  have hplane : (lowSection f hdr).length = n := hlow.trans hlcb
  have hsome := decodeAnswer_plane_eq_some (p := s.params) (draw := s.draws) (ctx := s.vctx) (job := decodeJob f hdr)
    (if_pos hvc) hplane
  refine ⟨_, execDecode_of_plane hrole hlen hparse hkey hconsistent hentropy hsome, ?state,
    get_decoded_dout hconsistent (ecDecompress_length hentropy) hplane⟩
  exact congrArg (endCommand .success) (deliverImage_eq hdr _ (s.afterDecoders hdr _))

end Sys2Proof.Machine
end

section
/-! SUPPORT. An ENCODE and the DECODE of its frame (R112): what a successful DECODE has done, the path of a sentinel (S6), the
round trip with the stub coders, and a non-keyframe after a keyframe (S4). -/

namespace Sys2Proof.Machine

/-- R98, R109: a successful DECODE passed every check, both decoders answered, and the image was delivered. -/
theorem execDecode_success {s t : State} (h : execDecode s = .next t) (hok : t.result = .success) :
    ∃ hdr hs plane, parse s.inputFrame = .header hdr ∧ inconsistent hdr = false ∧
      ecDecompress s.params (highSection s.inputFrame hdr) hdr.hub.toNat = some hs ∧
      (decodeAnswer s.params s.draws s.vctx (decodeJob s.inputFrame hdr)).plane = some plane ∧
      t = endCommand .success (deliverImage hdr plane (s.afterDecoders hdr hs)) := by
  obtain ⟨-, rfl⟩ | ⟨-, -, rfl⟩ | ⟨-, -, herror, -⟩ | ⟨hrole, -, hdr, hs, plane, hparse, -, hconsistent, hec, -, hvc, ht⟩ :=
    execDecode_next h
  · cases hok
  · cases hok
  · simp [hok] at herror
  · have hcalls := vcDecode_afterDecoders hdr hs s
    rw [claimRole_dec hrole] at hvc ht
    exact ⟨hdr, hs, plane, hparse, hconsistent, hec, (congrArg Prod.snd hcalls).symm.trans hvc,
      ht.trans (congrArg (fun u => endCommand .success (deliverImage hdr plane u)) (congrArg Prod.fst hcalls))⟩

/-! The sentinel's path (R112 S6). -/

/-- R60: the nibble of a sample stands in its lane of the high stream. -/
theorem nibble_filterHigh {c : List Half} (heven : c.length % 2 = 0) {i : Nat} (hi : i < c.length) :
    ((filterHigh c).getD (i / 2) 0).extractLsb' (4 * (i % 2)) 4 = highNibble (c.getD i 0) := by
  rw [getD_filterHigh c (i / 2) (by omega)]
  obtain hlane | hlane := Nat.mod_two_eq_zero_or_one i
  · rw [hlane, show 2 * (i / 2) = i by omega]
    exact extractLsb'_append_lane0 _ _
  · rw [hlane, show 2 * (i / 2) + 1 = i by omega]
    exact extractLsb'_append_lane1 _ _

/-- R83: whatever the low plane, a sentinel leaves the filter a sentinel. -/
theorem getD_unfilter_of_sentinel {c : List Half} {plane : List Byte} (heven : c.length % 2 = 0)
    (hplane : plane.length = c.length) {i : Nat} (hi : i < c.length) (h0 : c.getD i 0 = 0) :
    (unfilter (filterHigh c) plane).getD i 0 = 0 := by
  have hlen : plane.length = 2 * (filterHigh c).length := by rw [length_filterHigh]; omega
  rw [List.getD_eq_getElem?_getD, getElem?_unfilter _ _ i hlen (by omega), nibble_filterHigh heven hi, h0, highNibble_zero]
  rfl

/-- R70: the rescaler keeps a sentinel. -/
theorem getD_rescale_of_sentinel {c : List Half} {i : Nat} (h0 : c.getD i 0 = 0) : (rescale c).codes.getD i 0 = 0 := by
  by_cases h : ∃ v ∈ c, v ≠ 0
  · obtain ⟨mn, hmn, mx, hmx, hmn0, hmx0, hbound⟩ := exists_min_max h
    rw [rescale_eq_map hmn hmx hmn0 hmx0 hbound, getD_map_of_zero (rescaleElement_zero mn mx), h0, rescaleElement_zero]
  · rw [rescale_of_forall_eq_zero (by simpa using h)]
    exact h0

/-- R73: so does its inverse. -/
theorem getD_unrescale_of_sentinel {c : List Half} (mn mx : Half) {i : Nat} (h0 : c.getD i 0 = 0) :
    (unrescale c mn mx).getD i 0 = 0 := by
  rw [unrescale_eq_map, getD_map_of_zero (unrescaleElement_zero mn mx), h0, unrescaleElement_zero]

/-- A code of the image ENCODE quantizes. -/
theorem getD_quantizedImage (s : State) {i : Nat} (hi : i < s.opSamples) :
    ((s.din.getSeq 0 s.opSamples).map quant).getD i 0 = quant (s.din.get i) := by
  rw [getD_map_of_zero (f := quant) rfl, getD_getSeq s.din 0 hi, Nat.zero_add]

theorem ecDecompress_congr {p q : Params} (h : p.entropyCoder = q.entropyCoder) (src : List Byte) (n : Nat) :
    ecDecompress p src n = ecDecompress q src n := by
  rw [ecDecompress, ecDecompress, h]

/-- R43, R103: the entropy decoder gives back the high stream of a non-empty high section, whatever VCTX and the low
section. -/
theorem ecDecompress_payloads {s : State} {p : Params} {key : Bool} (hec : p.entropyCoder = s.params.entropyCoder)
    (hne : (s.payloads key).hi ≠ []) :
    ecDecompress p (s.payloads key).hi (s.opSamples / 2) = some (filterHigh s.rescaledImage.codes) := by
  rw [ecDecompress_congr hec, ← length_rescaledImage s, ← length_filterHigh]
  exact ecDecompress_ecCompress hne

/-- Settles O47: DECODE reads ENCODE's header, its entropy decoder gives back the high stream, and in that stream the
sentinel's nibble decides the pixel. -/
theorem zeroPreservation : Obligations.ZeroPreservation := by
  intro i s t u v hi hlegal hencode hok hec hflen hfin hdecode hdone a ha hquant
  obtain ⟨k, hk⟩ := exists_keyframe_request hi
  rw [exec_eq_encodeWith hk] at hencode
  obtain ⟨hsize, hfits, hs, ls, rfl⟩ := encodeWith_eq_encoded hencode hok
  obtain ⟨hhcb, hlcb⟩ := toNat_encodeHeader_lengths hlegal hfits
  have hframe : u.inputFrame = s.encodedFrame (keyframe k s) := hfin.trans (getSeq_encoded hlegal hfits hs ls)
  obtain ⟨hdr, high, plane, hparse, hconsistent, hentropy, hplane, rfl⟩ := execDecode_success hdecode hdone
  obtain rfl : hdr = s.encodeHeader (keyframe k s) (s.payloads (keyframe k s)) := by
    rw [(parse_header hparse).1, hframe]
    exact headerOf_frameOf hhcb hlcb
  obtain ⟨heven, -, hhcb0, -⟩ := (inconsistent_eq_false _).1 hconsistent
  have hhigh : high = filterHigh s.rescaledImage.codes := by
    have hne : (s.payloads (keyframe k s)).hi ≠ [] := by
      rwa [← List.length_pos_iff_ne_nil, ← hhcb, Nat.pos_iff_ne_zero, Ne, ← eq_zero_iff_toNat]
    rw [hframe, toNat_encodeHeader_hub hsize, State.encodedFrame, frameOf, highSection_assemble hhcb,
      ecDecompress_payloads hec hne] at hentropy
    exact (Option.some.inj hentropy).symm
  have hcodes := length_rescaledImage s
  have hcode : s.rescaledImage.codes.getD a 0 = 0 :=
    getD_rescale_of_sentinel ((getD_quantizedImage s ha).trans hquant)
  have hjoined : (unfilter high plane).getD a 0 = 0 := by
    rw [hhigh]
    exact getD_unfilter_of_sentinel (hcodes.symm ▸ heven) ((decodeAnswer_length hplane).trans hcodes.symm)
      (hcodes.symm ▸ ha) hcode
  rw [endCommand_dout, get_decoded_dout hconsistent (ecDecompress_length hentropy) (decodeAnswer_length hplane)]
  refine (if_pos ha).trans ?_
  rw [getD_unrescale_of_sentinel _ _ hjoined]
  rfl

/-! The round trip (R74, R83). -/

/-- R71: a code of 11 bits is rescaled to one. -/
theorem toNat_rescaleElement_le {mn mx v : Half} (hmn0 : mn ≠ 0) (hmx : mx.toNat ≤ 2047)
    (hv : v ≠ 0 → v.toNat ≤ mx.toNat) : (rescaleElement mn mx v).toNat ≤ 2047 := by
  rw [Ne, eq_zero_iff_toNat] at hmn0
  by_cases h0 : v = 0
  · rw [h0, rescaleElement_zero]
    decide
  by_cases hflat : mx.toNat - mn.toNat + 1 ≤ 1
  · rw [toNat_rescaleElement hv]
    dsimp only
    split_ifs <;> omega
  · exact (toNat_rescaleElement_mem_Icc (by omega) (by omega) h0 (hv h0)).2

theorem rescale_codes_le {c : List Half} (hc : ∀ v ∈ c, v.toNat ≤ 2047) : ∀ v ∈ (rescale c).codes, v.toNat ≤ 2047 := by
  by_cases h : ∃ v ∈ c, v ≠ 0
  · obtain ⟨mn, hmn, mx, hmx, hmn0, hmx0, hbound⟩ := exists_min_max h
    rw [rescale_eq_map hmn hmx hmn0 hmx0 hbound]
    intro code hcode
    obtain ⟨v, hv, rfl⟩ := List.mem_map.1 hcode
    exact toNat_rescaleElement_le hmn0 (hc mx hmx) fun h0 => (hbound v hv h0).2
  · rw [rescale_of_forall_eq_zero (by simpa using h)]
    exact hc

/-- R74, R83: filter and rescaler undone on the image ENCODE takes: the quantized depths. -/
theorem unrescale_unfilter_rescaledImage {s : State} (heven : s.opSamples % 2 = 0) :
    unrescale (unfilter (filterHigh s.rescaledImage.codes) (filterLow s.rescaledImage.codes))
      s.rescaledImage.min s.rescaledImage.max = (s.din.getSeq 0 s.opSamples).map quant := by
  have hcodes : ∀ v ∈ (s.din.getSeq 0 s.opSamples).map quant, v.toNat ≤ 2047 := by
    intro v hv
    obtain ⟨d, -, rfl⟩ := List.mem_map.1 hv
    have := quantNat_lt d.toNat
    rw [toNat_quant]
    omega
  have hrescaled : ∀ v ∈ s.rescaledImage.codes, v.toNat ≤ 2047 := rescale_codes_le hcodes
  rw [unfilter_filter _ (by rwa [length_rescaledImage]) hrescaled]
  exact unrescale_rescale _

/-- Settles O48: ENCODE emits the filter's streams, DECODE answers the image of the frame's sections, and the two undo each
other up to the quantizer. -/
theorem stubCodersRoundTrip : Obligations.StubCodersRoundTrip := by
  intro i k s hi hec hvc hlegal hrole hw1 hw2 hh1 hh2 n heven hn hcap
  have hsize := (badImageSize_eq_false_iff s).2 ⟨hw1, hw2, hh1, hh2, heven⟩
  have hpayloads := payloads_of_stubCoders hec hvc (keyframe k s)
  have hhigh : (s.payloads (keyframe k s)).hi.length = n / 2 := by
    rw [hpayloads, length_filterHigh, length_rescaledImage]; rfl
  have hlow : (s.payloads (keyframe k s)).lo.length = n := by rw [hpayloads, length_filterLow, length_rescaledImage]; rfl
  have hfits : 26 + (s.payloads (keyframe k s)).hi.length + (s.payloads (keyframe k s)).lo.length ≤ s.params.frameCap := by
    rwa [hhigh, hlow]
  obtain ⟨hs, ls, hexec⟩ := encodeWith_emits (k := k) hrole hsize hfits
  refine ⟨_, (exec_eq_encodeWith hi s).trans hexec, rfl, fun u hparams hdecoder hkey hflen hfin => ?_⟩
  have hframe : u.inputFrame = s.encodedFrame (keyframe k s) := hfin.trans (getSeq_encoded hlegal hfits hs ls)
  have hparse := (congrArg parse hframe).trans (parse_encodedFrame hlegal hfits hsize hn)
  obtain ⟨hhcb, hlcb⟩ := toNat_encodeHeader_lengths hlegal hfits
  have hlen : u.op.flen.toNat ≤ u.params.frameCap := by
    have hlength := congrArg List.length hframe
    rw [State.inputFrame, length_getSeq, length_encodedFrame] at hlength
    rw [hparams]
    exact hlength.trans_le hfits
  have hkeyframe : BitVec.ofBool (keyframe k s) = 1 ∨ u.frameCount ≠ 0 := by
    obtain rfl | hfirst | hlater := hkey
    · exact .inl rfl
    · exact .inl (congrArg BitVec.ofBool (keyframe_of_frameCount_eq_zero k hfirst))
    · exact .inr hlater
  obtain ⟨v, hdecode, hv, hdout⟩ := decodeWithStubCoders u _ (hparams ▸ hec) (hparams ▸ hvc) hdecoder hlen hparse
    hkeyframe heven (toNat_encodeHeader_hub hsize _ _) (hhcb.trans hhigh) (hlcb.trans hlow)
  refine ⟨v, hdecode, by rw [hv], fun a ha => ((hdout a).trans (if_pos ha)).trans (congrArg dequant ?_)⟩
  have hsections : highSection u.inputFrame (s.encodeHeader (keyframe k s) (s.payloads (keyframe k s))) =
      filterHigh s.rescaledImage.codes ∧
      lowSection u.inputFrame (s.encodeHeader (keyframe k s) (s.payloads (keyframe k s))) =
      filterLow s.rescaledImage.codes := by
    rw [hframe, State.encodedFrame, frameOf, highSection_assemble hhcb, lowSection_assemble hhcb hlcb, hpayloads]
    exact ⟨rfl, rfl⟩
  obtain ⟨hhighSection, hlowSection⟩ := hsections
  simp only [State.inputFrame, State.opFrameLength] at hhighSection hlowSection
  rw [hhighSection, hlowSection]
  exact (congrArg (List.getD · a 0) (unrescale_unfilter_rescaledImage heven)).trans (getD_quantizedImage s ha)

/-! VC-KEY (R112 S4). -/

/-- R109: a successful DECODE leaves VCTX as the video decoder's answer to the frame's job has it, with a plane. -/
theorem execDecode_success_answer {s t : State} {hdr : Header} (h : execDecode s = .next t) (hok : t.result = .success)
    (hparse : parse s.inputFrame = .header hdr) :
    ∃ plane, (decodeAnswer s.params s.draws s.vctx (decodeJob s.inputFrame hdr)).plane = some plane ∧
      t.vctx = (decodeAnswer s.params s.draws s.vctx (decodeJob s.inputFrame hdr)).ctx := by
  obtain ⟨hdr', hs, plane, hparse', -, -, hplane, rfl⟩ := execDecode_success h hok
  obtain rfl : hdr' = hdr := Parsed.header.inj (hparse'.symm.trans hparse)
  exact ⟨plane, hplane, (decodeAnswer_ctx ..).symm⟩

/-- Settles O60: the keyframe's answer leaves a ready context, from which VC-KEY gives the non-keyframe its plane. -/
theorem nonKeyframeDecodesAfterAKeyframe : Obligations.NonKeyframeDecodesAfterAKeyframe := by
  intro ready keyBits interBits interJobs s t u r q hs hvcKey hdecode hok f hparse hkeyBits hparams hvctx hrole hlater
    g n hlen hparse' heven hhub hhcb hlcb hec hinterBits
  obtain ⟨plane, hplane, hctx⟩ := execDecode_success_answer hdecode hok hparse
  have hready : ready u.vctx := by
    rw [hvctx, hctx]
    exact hvcKey.afterDecode _ _ _ plane hkeyBits hplane (decodeAnswer_length hplane)
  obtain ⟨⟨plane', hplane', -⟩, hready'⟩ := hvcKey.acceptsDecode u.draws u.vctx (decodeJob g q) hinterBits hready
  rw [← hparams, decodeAnswer_ctx] at hready'
  rw [← hparams] at hplane'
  have hconsistent := (inconsistent_eq_false q).2 ⟨heven, hhub, hhcb, hlcb⟩
  exact ⟨_, execDecode_of_plane hrole hlen hparse' (.inr hlater) hconsistent hec hplane', rfl, rfl, rfl,
    hready'⟩

end Sys2Proof.Machine
end

section
/-! SUPPORT. Rules about every command: its results (R121) and the inputs it leaves alone (R18, R21). -/

namespace Sys2Proof.Machine

/-! Results. -/

/-- R121: the unit commands but FPARSE succeed or refuse their operands. -/
theorem unit_result {i : Instr} (hi : isUnitCommand i = true) (hparse : i ≠ .fparse) (s : State) :
    Answers (fun t => t.result ∈ [Result.success, .badOperand]) (exec i s) := by
  have hraise (u : State) : Answers (fun t => t.result ∈ [Result.success, .badOperand]) (raise .badOperand u) :=
    .raise (by simp)
  have hsucceed (u : State) : Answers (fun t => t.result ∈ [Result.success, .badOperand]) (succeed u) :=
    .succeed (by simp)
  cases i with
  | quant | dequant | rescale | unrescale | unfilter | fasm | isdepth | iskey => exact .ite (hraise s) (hsucceed _)
  | filter => exact .ite (hraise s) (.ite (hraise s) (hsucceed _))
  | fparse => exact absurd rfl hparse
  | sreset | encode | encodeK | decode => cases hi

/-- R121: FPARSE passes on the parser's error. -/
theorem fparse_result (s : State) :
    Answers (fun t => t.result ∈ [Result.success, .fileTruncated, .wrongFormat, .corrupted, .badOperand])
      (execFparse s) := by
  refine .ite (.raise (by simp)) ?_
  split
  · next e hparse =>
    refine .raise ?_
    obtain rfl | rfl | rfl := parse_error hparse <;> simp
  · exact .succeed (by simp)

/-- R121: ENCODE and ENCODE.K. -/
theorem encode_result {i : Instr} {s t : State} (hi : i = .encode ∨ i = .encodeK) (h : exec i s = .next t) :
    t.result ∈ [Result.success, .illegalCommand, .badOperand] ∧ (t.result = .illegalCommand → s.role = .dec) := by
  obtain ⟨k, hk⟩ := exists_keyframe_request hi
  rw [exec_eq_encodeWith hk] at h
  obtain ⟨hrole, hres, -⟩ | ⟨-, hres, -⟩ | ⟨-, hres, -⟩ := encodeWith_transition h
  · simp [hres, hrole]
  · simp [hres]
  · simp [hres]

/-- R121: DECODE refuses the command only in an encoder's session. -/
theorem decode_illegal {s t : State} (h : execDecode s = .next t) (hres : t.result = .illegalCommand) : s.role = .enc := by
  obtain ⟨hrole, -⟩ | ⟨-, hother, -⟩ | ⟨-, herror, -⟩ | ⟨-, hother, -⟩ := execDecode_transition h
  · exact hrole
  · cases hres.symm.trans hother
  · simp [hres] at herror
  · cases hres.symm.trans hother

/-- Settles O41: R121's table, row by row. -/
theorem resultsByCommand : Obligations.ResultsByCommand := by
  refine ⟨fun i s t h => ⟨?sreset, fun hi => ?unit, ?fparse, fun hi => ?encode, ?decode⟩, fun s t hbad h => ?illegal⟩
  case sreset =>
    rintro rfl
    exact (succeed_next _ _).1 h ▸ rfl
  case unit => exact unit_result (by revert hi; cases i <;> decide) (by rintro rfl; exact absurd hi (by decide)) s t h
  case fparse =>
    rintro rfl
    exact fparse_result s t h
  case encode => exact encode_result (by simpa using hi) h
  case decode =>
    rintro rfl
    exact decode_illegal h
  case illegal =>
    rw [runCommand_of_decode_error hbad, raise_next] at h
    exact h ▸ rfl

/-! Inputs. -/

/-- What no command writes: the host's registers and buffers, its program and record, the parameters, the latch. -/
def State.inputs (s : State) :
    (OperandRegs × Memory 16 × Memory 8 × Params) × List HostStmt × List Word × Byte × Nat × Option Fault :=
  ((s.op, s.din, s.fin, s.params), s.prog, s.seen, s.cmd, s.delay, s.faultRec)

/-- `t` has the inputs of `s`, and the command has ended. -/
def EndedWithInputsOf (s t : State) : Prop := t.inputs = s.inputs ∧ t.busy = false

theorem claimRole_inputs (r : Role) (s : State) : (claimRole r s).inputs = s.inputs := by
  rw [claimRole_eq]; rfl

theorem encodePayloads_inputs (key : Bool) (s : State) : (encodePayloads key s).1.inputs = s.inputs := by
  rw [encodePayloads_frame]; rfl

theorem encodeWith_inputs (k : Bool) (s : State) : Answers (EndedWithInputsOf s) (encodeWith k s) := by
  intro t h
  obtain ⟨-, rfl⟩ | ⟨-, -, rfl⟩ | ⟨-, -, -, rfl⟩ := encodeWith_next h
  · exact ⟨rfl, rfl⟩
  · exact ⟨rfl, rfl⟩
  · have hcalls := (encodePayloads_inputs (keyframe k s) (claimRole .enc s)).trans (claimRole_inputs .enc s)
    generalize encodePayloads (keyframe k s) (claimRole .enc s) = r at hcalls
    exact ⟨hcalls, rfl⟩

theorem execDecode_inputs (s : State) : Answers (EndedWithInputsOf s) (execDecode s) := by
  intro t h
  have hclaim := claimRole_inputs .dec s
  obtain ⟨-, rfl⟩ | ⟨-, -, rfl⟩ | ⟨-, -, -, ht⟩ | ⟨-, -, _, _, _, -, -, -, -, -, -, rfl⟩ := execDecode_next h
  · exact ⟨rfl, rfl⟩
  · exact ⟨rfl, rfl⟩
  · exact ⟨(congrArg State.inputs ht).trans hclaim, (congrArg State.busy ht :)⟩
  · exact ⟨hclaim, rfl⟩

/-- R18, R19, R21: every command. -/
theorem exec_inputs (i : Instr) (s : State) : Answers (EndedWithInputsOf s) (exec i s) := by
  have hraise (r : Result) : Answers (EndedWithInputsOf s) (raise r s) := .raise ⟨rfl, rfl⟩
  cases i with
  | sreset => exact .succeed ⟨rfl, rfl⟩
  | quant | dequant | rescale | unrescale | unfilter | fasm | isdepth | iskey =>
    exact .ite (hraise _) (.succeed ⟨rfl, rfl⟩)
  | filter => exact .ite (hraise _) (.ite (hraise _) (.succeed ⟨rfl, rfl⟩))
  | fparse =>
    refine .ite (hraise _) ?_
    split
    · exact hraise _
    · exact .succeed ⟨rfl, rfl⟩
  | encode => exact encodeWith_inputs false s
  | encodeK => exact encodeWith_inputs true s
  | decode => exact execDecode_inputs s

/-- Settles O43: each command ends with the inputs it was given. -/
theorem commandsLeaveInputsAlone : Obligations.CommandsLeaveInputsAlone := by
  intro i s t h
  obtain ⟨hinputs, hbusy⟩ := exec_inputs i s t h
  simp only [State.inputs, Prod.mk.injEq] at hinputs
  obtain ⟨⟨hop, hdin, hfin, hparams⟩, hprog, hseen, hcmd, hdelay, hfault⟩ := hinputs
  exact ⟨hop, hdin, hfin, hparams, hprog, hseen, hcmd, hdelay, hfault, hbusy⟩

end Sys2Proof.Machine
end

section
/-! SUPPORT. Steps and runs: the core's move, the host's moves that R19, R123 and R138 speak of, a recorded fault, a wait. -/

namespace Sys2Proof.Machine

/-- Settles O1: the core's move runs the latched command, and a placed word lets the core move. -/
theorem stepRunsTheLatchedCommand : Obligations.StepRunsTheLatchedCommand := by
  have hrun {s : State} {i : Instr} (hi : decode s.cmd = .ok i) : runCommand s = exec i s := by
    rw [runCommand, hi]
  refine ⟨fun s i hfault hbusy hcore hi => (step_of_core hfault hbusy hcore).trans (hrun hi),
    fun s hfault hbusy hcore hbad => (step_of_core hfault hbusy hcore).trans (runCommand_of_decode_error hbad),
    fun s nbits w i hi => ?_⟩
  exact (step_of_core (s := s.withFetchWord nbits w) rfl rfl (.inl rfl)).trans (hrun hi)

/-- Settles O51: the write to register 0x30 is `issueCommand`. -/
theorem cmdWriteIssuesACommand : Obligations.CmdWriteIssuesACommand := by
  intro s v rest hfault hbusy hprog
  have hstep := (step_of_idle hfault hbusy).trans (hostMove_wr hprog)
  rw [hbusy, if_neg Bool.false_ne_true] at hstep
  exact ⟨_, hstep, rfl⟩

/-- Settles O52: each write and the reset look at BUSY first. -/
theorem hostProtocolFault : Obligations.HostProtocolFault := by
  intro s rest hfault hbusy hdelay
  have hticked : s.ticked.busy = true := hbusy
  refine ⟨fun num v hprog => ?wr, fun sp a v vs hprog => ?st, fun hprog => ?reset⟩
  case wr => rw [step_of_busy hfault hbusy hdelay hprog, hostMove_wr (s := s.ticked) hprog, if_pos hticked]
  case st => rw [step_of_busy hfault hbusy hdelay hprog, hostMove_st_cons (s := s.ticked) hprog, if_pos hticked]
  case reset => rw [step_of_busy hfault hbusy hdelay hprog, hostMove_blockReset (s := s.ticked) hprog, if_pos hticked]

/-- Settles O56: the host has no statement left. -/
theorem idleBlockKeepsItsState : Obligations.IdleBlockKeepsItsState :=
  fun _ hfault hbusy hprog => (step_of_idle hfault hbusy).trans (hostMove_nil hprog)

/-- Settles O59: the move is `resetBlock`. -/
theorem blockResetRestoresTheResetState : Obligations.BlockResetRestoresTheResetState := by
  intro s rest hfault hbusy hprog
  have hstep := (step_of_idle hfault hbusy).trans (hostMove_blockReset hprog)
  rw [hbusy, if_neg Bool.false_ne_true] at hstep
  exact ⟨_, hstep, rfl, rfl, rfl, rfl, rfl, rfl, rfl, rfl, rfl, rfl⟩

/-! Runs. -/

/-- R125: a step answers a recorded fault again. -/
theorem step_of_fault {s : State} {r : Fault} (hfault : s.faultRec = some r) : step s = .fault r := by
  rw [step, hfault]

/-- R125: recording a fault again changes nothing. -/
theorem advance_of_fault {s : State} {r : Fault} (hfault : s.faultRec = some r) : advance s = s := by
  rw [advance, step_of_fault hfault]
  cases s
  cases hfault
  rfl

theorem runFor_of_fault (n : Nat) {s : State} {r : Fault} (hfault : s.faultRec = some r) : runFor n s = s := by
  induction n with
  | zero => rfl
  | succ n ih => rw [runFor, advance_of_fault hfault, ih]

/-- Settles O58: every step of the run answers the recorded fault. -/
theorem modelFaultIsSticky : Obligations.ModelFaultIsSticky :=
  fun n _ _ hfault => ⟨step_of_fault hfault, runFor_of_fault n hfault⟩

/-- A wait while BUSY = 1 uses up one host move and nothing else. -/
theorem advance_wait {s : State} {rest : List HostStmt} (hfault : s.faultRec = none) (hbusy : s.busy = true)
    (hprog : s.prog = .wait :: rest) (hdelay : s.delay ≠ 0) : advance s = s.ticked := by
  have hticked : s.ticked.busy = true := hbusy
  rw [advance, step_of_busy hfault hbusy hdelay hprog, hostMove_wait (s := s.ticked) hprog, if_pos hticked]

theorem runFor_wait (n : Nat) {s : State} {rest : List HostStmt} (hfault : s.faultRec = none) (hbusy : s.busy = true)
    (hprog : s.prog = .wait :: rest) (hdelay : s.delay = n) : runFor n s = { s with delay := 0 } := by
  induction n generalizing s with
  | zero =>
    cases s
    cases hdelay
    rfl
  | succ n ih =>
    rw [runFor, advance_wait hfault hbusy hprog (by omega)]
    exact ih hfault hbusy hprog (by rw [State.ticked, hdelay, Nat.add_sub_cancel])

/-- Settles O57: the host waits the delay out, and then the core moves. -/
theorem waitingReachesTheCoreMove : Obligations.WaitingReachesTheCoreMove :=
  fun s _ hfault hbusy hprog =>
    ⟨runFor_wait s.delay hfault hbusy hprog rfl, step_of_core (s := { s with delay := 0 }) hfault hbusy (.inl rfl)⟩

end Sys2Proof.Machine
end

section
/-! SUPPORT. The host's element accesses (R34, R152): the address spaces as a family indexed by `Space`, and what the host's
statements do to them. -/

namespace Sys2Proof.Machine

/-- The address space a name stands for (R27). -/
def State.space (s : State) : (sp : Space) → Memory (elementWidth sp)
  | .din => s.din
  | .dout => s.dout
  | .cbuf => s.cbuf
  | .hbuf => s.hbuf
  | .lbuf => s.lbuf
  | .fin => s.fin
  | .fout => s.fout
  | .hs => s.hs
  | .ls => s.ls

/-- A word cut to `w` bits and zero-extended again (R18, R34). -/
theorem toNat_setWidth_setWidth (w : Nat) (v : Word) : ((v.setWidth w).setWidth 32).toNat = v.toNat % 2 ^ w := by
  rw [BitVec.toNat_setWidth, BitVec.toNat_setWidth, Nat.mod_eq_of_lt ((Nat.mod_le _ _).trans_lt v.isLt)]

theorem readElement_eq (sp : Space) (a : Nat) (s : State) :
    readElement sp a s = ((s.space sp).get a).setWidth 32 := by
  cases sp <;> rfl

/-- R34: a written element replaces its address space and no other. -/
theorem space_writeElement (sp : Space) (a : Nat) (v : Word) (s : State) :
    (writeElement sp a v s).space =
      Function.update s.space sp ((s.space sp).setSeq a [v.setWidth (elementWidth sp)]) := by
  funext other
  cases sp <;> cases other <;> rfl

/-- R34: a value that fits the element is read back. -/
theorem readElement_writeElement_same {sp : Space} (a : Nat) {v : Word} (hfit : v.toNat < 2 ^ elementWidth sp) (s : State) :
    readElement sp a (writeElement sp a v s) = v := by
  have hget : ((s.space sp).setSeq a [v.setWidth (elementWidth sp)]).get a = v.setWidth (elementWidth sp) :=
    get_setSeq_inside _ a [v.setWidth (elementWidth sp)] 0 Nat.zero_lt_one
  rw [readElement_eq, space_writeElement, Function.update_self, hget]
  exact BitVec.eq_of_toNat_eq ((toNat_setWidth_setWidth _ v).trans (Nat.mod_eq_of_lt hfit))

/-- R34: every other element of every space is as it was. -/
theorem readElement_writeElement_of_ne {sp sp' : Space} {a a' : Nat} (hne : (sp', a') ≠ (sp, a)) (v : Word) (s : State) :
    readElement sp' a' (writeElement sp a v s) = readElement sp' a' s := by
  rw [readElement_eq, readElement_eq, space_writeElement]
  by_cases hsp : sp' = sp
  · subst hsp
    have ha : a' ≠ a := fun ha => hne (ha ▸ rfl)
    rw [Function.update_self, get_setSeq_outside _ _ _ _ (by rw [List.length_singleton]; omega)]
  · rw [Function.update_of_ne hsp]

/-- R152: an access within the host table. -/
theorem hostReaches_eq_true {sp : Space} {a : Nat} {s : State} (hvisible : hostVisible sp = true)
    (ha : a < capacityOf s.params.frameCap sp) : hostReaches sp a s = true := by
  rw [hostReaches, hvisible, Bool.true_and, decide_eq_true ha]

/-- R152: an access outside it. -/
theorem hostReaches_eq_false {sp : Space} {a : Nat} {s : State}
    (h : hostVisible sp = false ∨ capacityOf s.params.frameCap sp ≤ a) : hostReaches sp a s = false := by
  rw [hostReaches, Bool.and_eq_false_iff]
  exact h.imp_right fun ha => decide_eq_false (Nat.not_lt.2 ha)

/-- R152: what a write of one element within the table leaves. -/
theorem writeElement_frame {sp : Space} (hvisible : hostVisible sp = true) (a : Nat) (v : Word) (s : State) :
    let t := writeElement sp a v s
    t = { s with
      din := t.din, dout := t.dout, cbuf := t.cbuf, hbuf := t.hbuf, lbuf := t.lbuf, fin := t.fin, fout := t.fout } := by
  cases sp with
  | hs | ls => cases hvisible
  | din | dout | cbuf | hbuf | lbuf | fin | fout => rfl

/-- R152: `st` of one element within the table. -/
theorem hostStore_of_reaches {sp : Space} {a : Nat} {v : Word} {s : State} (hvisible : hostVisible sp = true)
    (ha : a < capacityOf s.params.frameCap sp) (hfit : v.toNat < 2 ^ elementWidth sp) :
    hostStore sp a v s = .next (writeElement sp a v s) := by
  rw [hostStore, hostReaches_eq_true hvisible ha, Bool.true_and, if_pos (decide_eq_true hfit)]

/-- R152: `st` of one element outside it. -/
theorem hostStore_of_outside {sp : Space} {a : Nat} {v : Word} {s : State}
    (hout : hostVisible sp = false ∨ capacityOf s.params.frameCap sp ≤ a ∨ 2 ^ elementWidth sp ≤ v.toNat) :
    hostStore sp a v s = .refused .hostAccess := by
  rw [← or_assoc] at hout
  obtain hout | hwide := hout
  · rw [hostStore, hostReaches_eq_false hout]
    rfl
  · rw [hostStore, decide_eq_false (Nat.not_lt.2 hwide), Bool.and_false]
    rfl

theorem readElement_withProg (sp : Space) (a : Nat) (s : State) (rest : List HostStmt) :
    readElement sp a (s.withProg rest) = readElement sp a s := by
  cases sp <;> rfl

/-- Settles O53: the write is `writeElement`. -/
theorem hostStoresOneElement : Obligations.HostStoresOneElement := by
  intro s sp a v vs rest hfault hbusy hprog hvisible ha hfit
  have hstep : step s = .next (writeElement sp a v (s.withProg (.st sp (a + 1) vs :: rest))) := by
    rw [step_of_idle hfault hbusy, hostMove_st_cons hprog, if_neg (Bool.eq_false_iff.1 hbusy)]
    exact hostStore_of_reaches hvisible ha hfit
  exact ⟨_, hstep, writeElement_frame hvisible a v _, readElement_writeElement_same a hfit _, fun sp' a' hne =>
    (readElement_writeElement_of_ne hne v _).trans (readElement_withProg ..)⟩

/-! Reads. -/

/-- R152: a host read while BUSY = 0. -/
theorem observeOrDraw_idle {s : State} (hbusy : s.busy = false) (w : Nat) (v : Word) :
    observeOrDraw w v s = observe v s :=
  if_neg (Bool.eq_false_iff.1 hbusy)

/-- R36, R144: a host read while BUSY = 1. -/
theorem observeOrDraw_busy {s : State} (hbusy : s.busy = true) (w : Nat) (v : Word) :
    observeOrDraw w v s = observe (((Config.busyRead s.draws).setWidth w).setWidth 32) { s with draws := s.draws + 1 } :=
  if_pos hbusy

theorem regOfNumber_eq_busy_iff (num : BitVec 6) : regOfNumber num = some .busy ↔ num = 0x23 := by
  revert num; decide

/-- R18, R152: `rd` while BUSY = 0, of BUSY too. -/
theorem hostRead_idle {s : State} (hbusy : s.busy = false) (num : BitVec 6) :
    hostRead num s = observe (readNumber num s) s := by
  rw [hostRead, observeOrDraw_idle hbusy]
  split
  · next hreg => rw [readNumber, hreg]
  · rfl

/-- R36, R144: `rd` of any register but BUSY while BUSY = 1. -/
theorem hostRead_busy {s : State} (hbusy : s.busy = true) {num : BitVec 6} (hnum : num ≠ 0x23) :
    hostRead num s = observe (Config.busyRead s.draws) { s with draws := s.draws + 1 } := by
  rw [hostRead, if_neg (mt (regOfNumber_eq_busy_iff num).1 hnum), observeOrDraw_busy hbusy, BitVec.setWidth_eq,
    BitVec.setWidth_eq]

/-- R36: BUSY itself reads truly while BUSY = 1. -/
theorem hostRead_busy_register {s : State} (hbusy : s.busy = true) : hostRead 0x23 s = observe 1 s := by
  rw [hostRead, if_pos ((regOfNumber_eq_busy_iff _).2 rfl), readReg, hbusy]
  rfl

/-- R152: `ld` of an element within the table. -/
theorem hostLoad_of_reaches {sp : Space} {a : Nat} {s : State} (hvisible : hostVisible sp = true)
    (ha : a < capacityOf s.params.frameCap sp) :
    hostLoad sp a s = .next (observeOrDraw (elementWidth sp) (readElement sp a s) s) :=
  if_pos (hostReaches_eq_true hvisible ha)

/-- Settles O54: the host's record and program move, and while BUSY = 1 the draw counter and the delay. -/
theorem hostReadsHaveNoSideEffects : Obligations.HostReadsHaveNoSideEffects := by
  intro s rest hfault
  refine ⟨fun num hbusy hprog => ?rd, fun sp a b hbusy hprog hab hvisible ha => ?ld, fun hbusy hdelay hprog => ?rdBusy,
    fun num hnum hbusy hdelay hprog => ?rdDraw, fun sp a b hbusy hdelay hprog hab hvisible ha => ?ldDraw⟩
  case rd =>
    rw [step_of_idle hfault hbusy, hostMove_rd hprog, hostRead_idle (s := s.withProg rest) hbusy]
    rfl
  case ld =>
    rw [step_of_idle hfault hbusy, hostMove_ld hprog, if_pos hab,
      hostLoad_of_reaches (s := s.withProg (.ld sp (a + 1) b :: rest)) hvisible ha, readElement_withProg,
      observeOrDraw_idle (s := s.withProg (.ld sp (a + 1) b :: rest)) hbusy]
    rfl
  case rdBusy =>
    rw [step_of_busy hfault hbusy hdelay hprog, hostMove_rd (s := s.ticked) hprog,
      hostRead_busy_register (s := s.ticked.withProg rest) hbusy]
    rfl
  case rdDraw =>
    rw [step_of_busy hfault hbusy hdelay hprog, hostMove_rd (s := s.ticked) hprog,
      hostRead_busy (s := s.ticked.withProg rest) hbusy hnum]
    rfl
  case ldDraw =>
    refine ⟨_, toNat_setWidth_setWidth (elementWidth sp) (Config.busyRead s.draws), ?_⟩
    rw [step_of_busy hfault hbusy hdelay hprog, hostMove_ld (s := s.ticked) hprog, if_pos hab,
      hostLoad_of_reaches (s := s.ticked.withProg (.ld sp (a + 1) b :: rest)) hvisible ha,
      observeOrDraw_busy (s := s.ticked.withProg (.ld sp (a + 1) b :: rest)) hbusy]
    rfl

/-- R152: `ld` of an element outside it. -/
theorem hostLoad_of_outside {sp : Space} {a : Nat} {s : State}
    (hout : hostVisible sp = false ∨ capacityOf s.params.frameCap sp ≤ a) : hostLoad sp a s = .refused .hostAccess := by
  rw [hostLoad, hostReaches_eq_false hout]
  rfl

/-- Settles O55: neither access passes the host table's check. -/
theorem hostAccessOutsideTheTable : Obligations.HostAccessOutsideTheTable := by
  intro s sp a rest hfault hbusy
  refine ⟨fun v vs hprog hout => ?st, fun b hprog hab hout => ?ld⟩
  case st =>
    rw [step_of_idle hfault hbusy, hostMove_st_cons hprog, if_neg (Bool.eq_false_iff.1 hbusy)]
    exact hostStore_of_outside hout
  case ld =>
    rw [step_of_idle hfault hbusy, hostMove_ld hprog, if_pos hab]
    exact hostLoad_of_outside hout

end Sys2Proof.Machine
end

section
/-! SUPPORT. The register map (R16 to R18): numbers and names, and what a write to a register makes each register read. -/

namespace Sys2Proof.Machine

/-! Numbers and names. -/

theorem regOfNumber_regNumber (r : Reg) : regOfNumber (regNumber r) = some r := by
  cases r <;> rfl

/-- R18: no register has two numbers. -/
theorem regNumber_of_regOfNumber {num : BitVec 6} {r : Reg} (h : regOfNumber num = some r) : regNumber r = num := by
  have hall : ∀ num : BitVec 6, (regOfNumber num).all (fun r => regNumber r == num) = true := by decide
  have hnum := hall num
  rw [h] at hnum
  exact beq_iff_eq.1 hnum

theorem readNumber_of_some {num : BitVec 6} {r : Reg} (h : regOfNumber num = some r) (s : State) :
    readNumber num s = readReg r s := by
  rw [readNumber, h]

theorem writeNumber_of_some {num : BitVec 6} {r : Reg} (h : regOfNumber num = some r) (v : Word) (s : State) :
    writeNumber num v s = writeReg r v s := by
  rw [writeNumber, h]

/-! Reads. -/

/-- R16, R18: the low half of FRAME_COUNT. -/
theorem readReg_fcLo (s : State) : readReg .fcLo s = s.frameCount.setWidth 32 := by
  apply BitVec.eq_of_toNat_eq
  simp [readReg]

/-- R16, R18: the high half of FRAME_COUNT. -/
theorem readReg_fcHi (s : State) : readReg .fcHi s = (s.frameCount >>> 32).setWidth 32 := by
  apply BitVec.eq_of_toNat_eq
  simp [readReg]

/-- Settles O50: the two halves appended. -/
theorem frameCountReadsAsTwoHalves : Obligations.FrameCountReadsAsTwoHalves := by
  intro s
  have happend : s.frameCount.extractLsb' 32 32 ++ s.frameCount.extractLsb' 0 32 = s.frameCount.extractLsb' 0 64 :=
    BitVec.extractLsb'_append_extractLsb'_eq_extractLsb' rfl
  exact happend.trans BitVec.extractLsb'_eq_self

/-- R17, R62: no reserved result code and no role 3. -/
theorem toNat_code_le (r : Result) : r.code.toNat ≤ 6 := by
  cases r <;> decide

theorem toNat_roleCode_le (r : Role) : r.code.toNat ≤ 2 := by
  cases r <;> decide

/-- Settles O8: the three registers by the register map, and the codes. -/
theorem resultAndRoleCodes : Obligations.ResultAndRoleCodes := by
  refine ⟨fun s => ⟨rfl, rfl, ?busy⟩, fun s => ⟨?result, ?role⟩, rfl, rfl⟩
  case busy =>
    change (BitVec.ofBool s.busy).setWidth 32 = _
    cases s.busy <;> rfl
  case result => exact (BitVec.toNat_setWidth_of_le (by decide)).trans_le (toNat_code_le s.result)
  case role => exact (BitVec.toNat_setWidth_of_le (by decide)).trans_le (toNat_roleCode_le s.role)

/-! Writes. -/

/-- R18: the registers a write does not change. -/
theorem writeReg_of_readOnly {r : Reg} (hro : regWritable r = false) (hcmd : r ≠ .cmd) (v : Word) (s : State) :
    writeReg r v s = s := by
  cases r with
  | cmd => exact absurd rfl hcmd
  | result | rKey | rHevc | rFn | rW | rH | rMin | rMax | rHub | rHcb | rLcb | rLen | rBool | fcLo | fcHi | role | busy => rfl
  | opN | opW | opH | opType | opMin | opMax | opFlen | opFn | opFlags | opHub | opHcb | opLcb | vp0 | vp1 | vp2 | vp3 =>
    cases hro

section Writable
variable {r : Reg} (hrw : regWritable r = true) (v : Word) (s : State)
include hrw

/-- R18: a write to an operand register changes operand registers only. -/
theorem writeReg_op : writeReg r v s = { s with op := (writeReg r v s).op } := by
  cases r <;> cases hrw <;> rfl

/-- R18: an operand register keeps the low bits of the value. -/
theorem readReg_writeReg : (readReg r (writeReg r v s)).toNat = v.toNat % 2 ^ regBits r := by
  have hfull : v.toNat = v.toNat % 2 ^ 32 := (Nat.mod_eq_of_lt v.isLt).symm
  cases r <;> cases hrw
  case opN | opFlen | opHub | opHcb | opLcb | vp0 | vp1 | vp2 | vp3 => exact hfull
  case opW | opH | opMin | opMax | opFn => exact toNat_setWidth_setWidth 16 v
  case opType => exact toNat_setWidth_setWidth 1 v
  case opFlags => exact toNat_setWidth_setWidth 2 v

/-- R18: of what the registers read, a write to an operand register changes that one alone. -/
theorem readReg_writeReg_eq_update :
    (fun r' => readReg r' (writeReg r v s)) = Function.update (readReg · s) r (readReg r (writeReg r v s)) := by
  funext r'
  cases r <;> cases hrw <;> cases r' <;> rfl

theorem readReg_writeReg_of_ne {r' : Reg} (hne : r' ≠ r) : readReg r' (writeReg r v s) = readReg r' s :=
  (congrFun (readReg_writeReg_eq_update hrw v s) r').trans (Function.update_of_ne hne ..)

end Writable

/-- R18: a write to an operand register changes what no other register number reads. -/
theorem readNumber_writeNumber_of_ne {num other : BitVec 6} {r : Reg} (hr : regOfNumber num = some r)
    (hrw : regWritable r = true) (hne : other ≠ num) (v : Word) (s : State) :
    readNumber other (writeNumber num v s) = readNumber other s := by
  rw [writeNumber_of_some hr]
  cases hother : regOfNumber other with
  | none => rw [readNumber, readNumber, hother]
  | some r' =>
    have hne' : r' ≠ r := by
      rintro rfl
      exact hne ((regNumber_of_regOfNumber hother).symm.trans (regNumber_of_regOfNumber hr))
    rw [readNumber_of_some hother, readNumber_of_some hother, readReg_writeReg_of_ne hrw v s hne']

/-- Settles O49: the map's rows, then writes to RW, RO and reserved numbers. -/
theorem registerMap : Obligations.RegisterMap := by
  refine ⟨fun s => ⟨rfl, rfl, rfl, rfl, rfl, rfl, rfl, rfl, rfl, rfl, rfl, rfl, rfl, rfl, rfl, rfl, rfl, rfl, rfl, rfl, rfl,
    rfl, rfl, rfl, rfl, rfl, rfl, rfl, rfl, readReg_fcLo s, readReg_fcHi s, rfl, rfl, rfl⟩,
    fun num r v s hr hrw => ⟨?value, fun other hne => readNumber_writeNumber_of_ne hr hrw hne v s, ?op⟩,
    fun num r v s hr hro hcmd => (writeNumber_of_some hr v s).trans (writeReg_of_readOnly hro hcmd v s),
    fun num v s hr => ⟨?ignored, ?zero⟩, regOfNumber_regNumber⟩
  case value => rw [writeNumber_of_some hr, readNumber_of_some hr, readReg_writeReg hrw]
  case op => rw [writeNumber_of_some hr]; exact writeReg_op hrw v s
  case ignored => rw [writeNumber, hr]
  case zero => rw [readNumber, hr]

end Sys2Proof.Machine
end

section
/-! SUPPORT. The opcode map and its inverse (R51 to R54), and the nibble of a code (R60, R79). -/

namespace Sys2Proof

/-- R51: a word is its three fields. -/
theorem word_commandFields (w : Byte) : (commandFields w).word = w := by
  revert w; decide

/-- R52: a row of the opcode map has the fields of its command. -/
theorem fields_of_opcodeMap {opc : BitVec 4} {i : Instr} (h : opcodeMap opc = some i) : i.fields = ⟨opc, false, 0⟩ := by
  have hall : ∀ opc : BitVec 4, (opcodeMap opc).all (fun i => decide (i.fields = ⟨opc, false, 0⟩)) = true := by decide
  have hopc := hall opc
  rw [h] at hopc
  exact of_decide_eq_true hopc

/-- R52, R53: the fields that decode are those of the command. -/
theorem fields_of_decodeFields {f : CommandFields} {i : Instr} (h : decodeFields f = .ok i) : i.fields = f := by
  obtain ⟨opc, k, rsv⟩ := f
  unfold decodeFields at h
  split at h
  · cases h
  · next hrsv =>
    obtain rfl : rsv = 0 := not_not.1 hrsv
    split at h
    · cases h
    · next hrow hk =>
      cases h
      cases hk
      exact fields_of_opcodeMap hrow
    · next hrow hk =>
      cases h
      cases hk
      exact congrArg (fun f : CommandFields => { f with k := true }) (fields_of_opcodeMap hrow)
    · cases h

namespace Machine

/-- Settles O4: the fields of each command decode to it; and the fields that decode make the word again. -/
theorem decodeInvertsEncode : Obligations.DecodeInvertsEncode := by
  refine ⟨fun i => ?encoded, fun w i h => ?decoded⟩
  case encoded => cases i <;> exact ⟨rfl, rfl⟩
  case decoded => rw [encode, fields_of_decodeFields h, word_commandFields]

/-- Settles O3: the opcode map, word by word. -/
theorem opcodeMapWords : Obligations.OpcodeMapWords :=
  ⟨rfl, rfl, rfl, rfl, rfl, rfl, rfl, rfl, rfl, rfl, rfl, rfl, rfl, rfl⟩

/-- Settles O20: raw_high + 1 is at least 1 and does not overflow. -/
theorem highNibbleReservesTheSentinel : Obligations.HighNibbleReservesTheSentinel := by
  intro c hc
  refine ⟨⟨fun hnibble => ?_, fun h0 => h0 ▸ highNibble_zero⟩, fun h0 => ?_⟩
  · by_contra h0
    have hnat := toNat_highNibble h0 hc
    rw [hnibble] at hnat
    exact absurd hnat.symm (Nat.succ_ne_zero _)
  · rw [toNat_highNibble h0 hc]
    omega

end Machine

end Sys2Proof
end
